-- ==== Sys2Proof/Word.lean ====
section
/-! DEFINITION. The word types of the machine (spec/00_scope.md rules R4 and R8). Every value is unsigned and bits are
numbered from 0, the least significant, as rule R8 fixes. -/

namespace Sys2Proof

/-- A general register, a timer, a cell of `mem`, the field `kk`. -/
abbrev Byte := BitVec 8

/-- An instruction word, `PC`, `I`, an entry of the call stack. -/
abbrev Word := BitVec 16

/-- The fields `family`, `x`, `y`, `n` of an instruction word. -/
abbrev Nibble := BitVec 4

/-- The field `nnn` of an instruction word. -/
abbrev Addr12 := BitVec 12

/-- The sixteen keys: bit `k` is key `k`, 1 when it is down (rule R81). -/
abbrev Keys := BitVec 16

/-- One row of the frame buffer: bit `c` is the pixel of column `c`, 1 when it is ON (assumption 11). -/
abbrev Row := BitVec 64

/-- The index of a general register, 0 to 15 (rule R10). The same four bits are a key number in `Ex9E` and `ExA1`
(rule R171) and a count in `Fx55` and `Fx65`. -/
abbrev RegIdx := Fin 16

end Sys2Proof
end

