-- ==== Sys2Proof/Config.lean ====
section
/-! DEFINITION. What is fixed for one machine, and the values the spec leaves free: the sizes of rule R4, the
alternatives of the named parameters of rule R5 (their defaults stand in Machine/Defaults.lean), and the host's inputs
that nothing constrains (rules R81, R133, R164). -/

namespace Sys2Proof.Config

/-- `MEM_SIZE` (rule R4). -/
def memSize : Nat := 4096

/-- `FONT_BASE` (rule R4). -/
def fontBase : Nat := 0x050

/-- `PROG_BASE` (rule R4). -/
def progBase : Nat := 0x200

/-- The parameter `KEYWAIT_EDGE` of rule R5: which transition of a key resolves `Fx0A` (rule R176). -/
inductive KeywaitEdge where
  | release
  | press
  deriving DecidableEq, Repr

/-- The parameter `KEY_SELECT` of rule R5: which key `Ex9E` and `ExA1` test (rule R171). -/
inductive KeySelect where
  | field
  | register
  deriving DecidableEq, Repr

/-- A value of the parameter `FONT` of rule R5: "any 80 bytes", in address order from 0x050 on (rules R27, R28). -/
structure Font where
  bytes : List Byte
  size  : bytes.length = 80
  deriving DecidableEq, Repr

/-- A value of the parameter `ROM_MAX_LEN` of rule R5: "any even value from 0 to 3584", in bytes (rule R226). -/
structure RomMaxLen where
  bytes   : Nat
  bounded : bytes ≤ 3584
  even    : bytes % 2 = 0
  deriving DecidableEq, Repr

/-- The named parameters of rule R5 that a machine fixes (`rnd`, the last row of its table, is an input of every tick). The
instructions read the first two; `FONT` acts at reset and `ROM_MAX_LEN` at the program load (Machine/Loader.lean). -/
structure Params where
  keywaitEdge : KeywaitEdge
  keySelect   : KeySelect
  font        : Font
  romMaxLen   : RomMaxLen
  deriving DecidableEq, Repr

/-- Free value: the host's key snapshot at tick `n`, where the state lists no input for that tick (rule R81,
assumption 1). -/
opaque freeKeys : Nat → Keys

/-- Free value: the random byte at tick `n`, where the state lists no input for that tick (rules R81 and R133: "the core
imposes no law on the sequence of `rnd` values"; assumption 1). -/
opaque freeRnd : Nat → Byte

/-- Free value: whether the host redraws, and so clears `display_dirty`, just before tick `n`, where the state lists no
input for that tick (rules R25 and R164, assumption 7). -/
opaque freeRedrawn : Nat → Bool

end Sys2Proof.Config
end

