-- ==== Sys2Proof/Machine/Defaults.lean ====
section
/-! DEFINITION. The defaults of the named parameters of rule R5 (spec/00_scope.md), and what memory holds after reset
(rules R26 to R28). -/

namespace Sys2Proof.Machine

/-- The glyphs of rule R28, one list of five bytes for each hexadecimal digit, top row first. The spec takes them from
general knowledge (assumption 4). -/
def glyphs : List (List Byte) :=
  [ [0xF0, 0x90, 0x90, 0x90, 0xF0],  -- 0
    [0x20, 0x60, 0x20, 0x20, 0x70],  -- 1
    [0xF0, 0x10, 0xF0, 0x80, 0xF0],  -- 2
    [0xF0, 0x10, 0xF0, 0x10, 0xF0],  -- 3
    [0x90, 0x90, 0xF0, 0x10, 0x10],  -- 4
    [0xF0, 0x80, 0xF0, 0x10, 0xF0],  -- 5
    [0xF0, 0x80, 0xF0, 0x90, 0xF0],  -- 6
    [0xF0, 0x10, 0x20, 0x40, 0x40],  -- 7
    [0xF0, 0x90, 0xF0, 0x90, 0xF0],  -- 8
    [0xF0, 0x90, 0xF0, 0x10, 0xF0],  -- 9
    [0xF0, 0x90, 0xF0, 0x90, 0x90],  -- A
    [0xE0, 0x90, 0xE0, 0x90, 0xE0],  -- B
    [0xF0, 0x80, 0x80, 0x80, 0xF0],  -- C
    [0xE0, 0x90, 0x90, 0x90, 0xE0],  -- D
    [0xF0, 0x80, 0xF0, 0x80, 0xF0],  -- E
    [0xF0, 0x80, 0xF0, 0x80, 0x80] ]  -- F

/-- `FONT` at its default: the 80 bytes of rule R28 in address order (rule R27). -/
def defaultFont : Config.Font := ⟨glyphs.flatten, by decide⟩

/-- `ROM_MAX_LEN` at its default, the most that fits from 0x200 on (rules R5 and R226, spec/92_eei_decisions.md D28). -/
def defaultRomMaxLen : Config.RomMaxLen := ⟨3584, by decide, by decide⟩

/-- The parameters at the defaults of rule R5 (assumption 3). -/
def defaultParams : Config.Params :=
  { keywaitEdge := .release, keySelect := .field, font := defaultFont, romMaxLen := defaultRomMaxLen }

/-- What an address that memory does not list reads as: the reset contents, the font table at 0x050 to 0x09F and 0x00
everywhere else (rules R26, R27, R46). -/
def initialByte (a : Nat) : Byte :=
  if Config.fontBase ≤ a then defaultFont.bytes.getD (a - Config.fontBase) 0x00#8 else 0x00#8

end Sys2Proof.Machine
end

