-- ==== Sys2Proof/Machine/State.lean ====
section
/-! DEFINITION. The state of the machine as plain data (spec/10_state.md rules R10 to R26), the faults of rule R190, and the
state after reset (rule R220). -/

namespace Sys2Proof.Machine

/-- `mem` (rule R26): the cells that differ from the reset contents, addresses strictly rising (Ops.lean `Memory.wf`). -/
abbrev Memory := List Host.Cell

/-- What the host does for one tick: the key snapshot and the random byte it supplies (rule R81), and whether it redrew,
and so cleared `display_dirty`, just before the tick (rules R25, R164, R228; assumption 7). -/
structure TickInput where
  redrawn : Bool
  keys    : Keys
  rnd     : Byte
  deriving DecidableEq, Repr

/-- The machine state (rules R10 to R26). The last four fields are the model's own: the configuration of rule R5, constant
over a run, and the tick inputs of rule R81 (assumptions 1 and 3). -/
structure State where
  /-- `V[0]` to `V[15]`; `VF` is `V[15]` (rules R10, R12). -/
  v            : Vector Byte 16
  /-- `I`, held in 16 bits (rule R15). -/
  index        : Word
  /-- `PC` (rule R13). -/
  pc           : Word
  /-- `stack[0]` to `stack[15]` (rule R17). -/
  stack        : Vector Word 16
  /-- `SP`, the number of entries, 0 to 16 (rule R18, which lets a model make 17 to 31 unrepresentable; assumption 9). -/
  sp           : Fin 17
  /-- `DT` (rule R19). -/
  dt           : Byte
  /-- `ST` (rule R20). -/
  st           : Byte
  /-- `FB`, one 64-bit row for each of the 32 rows (rule R21, assumption 11). -/
  fb           : Vector Row 32
  /-- `key`, bit `k` for key `k` (rule R22). -/
  key          : Keys
  /-- `prevkey` (rule R23). -/
  prevkey      : Keys
  /-- `awaiting_key` (rule R24). -/
  awaitingKey  : Bool
  /-- `display_dirty` (rule R25). -/
  displayDirty : Bool
  /-- `mem` (rule R26). -/
  mem          : Memory
  /-- The parameters of rule R5: `KEYWAIT_EDGE`, `KEY_SELECT`, `FONT`, `ROM_MAX_LEN`; no step writes them (rule R29). -/
  params       : Config.Params
  /-- The random byte of the tick in progress, loaded from the input `rnd` (rule R81). -/
  rnd          : Byte
  /-- The host's inputs for the coming ticks, the next one first; where the list is empty the inputs are free values. -/
  inputs       : List TickInput
  /-- How many ticks have been taken: the argument of the free values. -/
  ticks        : Nat
  deriving DecidableEq, Repr

/-- The reasons a tick ends in a fault (rule R190). Every fault is terminal (rules R198, R199) and carries the machine state it
leaves, which rule R198 fixes. Each is the spec's own outcome; `outOfBoundsData` is also the spec's choice where the source
is silent (decision D9), which errs to the safe side: the machine stops where the real one might go on. -/
inductive Fault where
  /-- `OutOfBounds` at fetch, raised by the tick itself when `PC > 0x0FFE` (rules R82, R191). Safe. -/
  | outOfBoundsFetch (final : State)
  /-- `OutOfBounds` on a data access, raised by `Dxyn`, `Fx33`, `Fx55`, `Fx65` whose block passes 0x0FFF (rules R48, R193); the
  two causes are kept apart as rule R193 allows (assumption 5). Safe. -/
  | outOfBoundsData (final : State)
  /-- `IllegalInstruction`, raised by the tick at dispatch of a word of rule R67 (rules R85, R192). Safe. -/
  | illegalInstruction (final : State)
  /-- `StackUnderflow`, raised by `00EE` with `SP = 0` (rules R102, R194). Safe. -/
  | stackUnderflow (final : State)
  /-- `StackOverflow`, raised by `2nnn` with `SP = 16` (rules R104, R195). Safe. -/
  | stackOverflow (final : State)
  deriving DecidableEq, Repr

/-- Why an instruction has no meaning. No arm of exec is refused, so nothing raises it. -/
inductive Refusal where
  /-- An instruction of the table that is not modelled yet. Safe: the machine stops. -/
  | notModelled (mnemonic : String)
  deriving DecidableEq, Repr

/-- The machine right after reset (rules R220 and R222; spec/10_state.md section 8), with the parameters at their defaults and
no input listed. Memory lists nothing: unlisted addresses read as the reset contents (`initialByte`). -/
def State.reset : State :=
  { v            := Vector.replicate 16 0x00#8
    index        := 0x0000#16
    pc           := 0x0200#16
    stack        := Vector.replicate 16 0x0000#16
    sp           := 0
    dt           := 0x00#8
    st           := 0x00#8
    fb           := Vector.replicate 32 0#64
    key          := 0x0000#16
    prevkey      := 0x0000#16
    awaitingKey  := false
    displayDirty := false
    mem          := []
    params       := defaultParams
    rnd          := 0x00#8
    inputs       := []
    ticks        := 0 }

end Sys2Proof.Machine
end

