-- ==== Sys2Proof/Machine/Ops.lean ====
section
/-! DEFINITION. The named operations over memory, registers, the stack, the frame buffer and the key-wait state, and raising a
fault (spec/20_memory.md rules R43, R45, R48; spec/10_state.md; spec/60_exceptions.md rule R198). -/

namespace Sys2Proof.Machine

/-! ## Memory -/

/-- `MemRead(a, 1)` (rule R43): the listed byte, else the reset contents. Addresses above 0x0FFF do not exist; every caller
checks them before calling (rules R48, R82; assumption 8). -/
def Memory.read : Memory → Nat → Byte
  | [], a => initialByte a
  | (k, b) :: m, a => if k = a then b else Memory.read m a

/-- Lists the byte `b` at `a`, in its place in the rising order. -/
def Memory.list : Memory → Nat → Byte → Memory
  | [], a, b => [(a, b)]
  | (k, c) :: m, a, b =>
    if a < k then (a, b) :: (k, c) :: m
    else if a = k then (a, b) :: m
    else (k, c) :: Memory.list m a b

/-- Takes every entry at `a` out of the list; in the canonical form there is at most one. -/
def Memory.unlist : Memory → Nat → Memory
  | [], _ => []
  | (k, c) :: m, a => if k = a then Memory.unlist m a else (k, c) :: Memory.unlist m a

/-- `MemWrite(a, 1, b)` (rule R43), in the canonical form: a byte equal to the reset contents is not listed. An address above
0x0FFF has no cell to write (assumption 8). -/
def Memory.write (m : Memory) (a : Nat) (b : Byte) : Memory :=
  if a < Config.memSize then
    if b = initialByte a then m.unlist a else m.list a b
  else m

/-- The canonical form of the cells from address `lo` on: addresses strictly rising and inside the space, no entry equal to
what an unlisted address reads as. -/
def Memory.wfFrom : Nat → Memory → Bool
  | _, [] => true
  | lo, (k, b) :: m =>
    decide (lo ≤ k) && decide (k < Config.memSize) && decide (b ≠ initialByte k) && Memory.wfFrom (k + 1) m

/-- The canonical form of memory: equal memories are equal lists. -/
def Memory.wf (m : Memory) : Bool := m.wfFrom 0

/-- Byte writes at ascending addresses from `base` (rules R41, R44). -/
def Memory.storeBytes : Memory → Nat → List Byte → Memory
  | m, _, [] => m
  | m, base, b :: bs => Memory.storeBytes (m.write base b) (base + 1) bs

/-- `n` byte reads at ascending addresses from `base` (rules R41, R44). -/
def Memory.readBytes (m : Memory) : Nat → Nat → List Byte
  | _, 0 => []
  | base, n + 1 => m.read base :: m.readBytes (base + 1) n

/-! ## General registers -/

/-- Reads `V[x]` (rule R10). -/
def State.readV (s : State) (x : RegIdx) : Byte := s.v[x.val]

/-- `V[x] <- b` (rule R10). -/
def State.setV (s : State) (x : RegIdx) (b : Byte) : State := { s with v := s.v.set x.val b }

/-- Replaces the whole register bank. -/
def State.setBank (s : State) (bank : Vector Byte 16) : State := { s with v := bank }

/-- The flag register `VF` (rules R10, R12). -/
def vf : RegIdx := 15

/-! ## Special registers -/

/-- `PC <- p` (rule R13). -/
def State.setPc (s : State) (p : Word) : State := { s with pc := p }

/-- `I <- a` (rule R15). -/
def State.setIndex (s : State) (a : Word) : State := { s with index := a }

/-- `DT <- b` (rule R19). -/
def State.setDt (s : State) (b : Byte) : State := { s with dt := b }

/-- `ST <- b` (rule R20). -/
def State.setSt (s : State) (b : Byte) : State := { s with st := b }

/-- Replaces `mem`. -/
def State.setMem (s : State) (m : Memory) : State := { s with mem := m }

/-- Replaces the frame buffer and sets `display_dirty`, as every display instruction does (rule R25). -/
def State.setScreen (s : State) (fb : Vector Row 32) : State := { s with fb := fb, displayDirty := true }

/-- `awaiting_key <- b` (rule R24). -/
def State.setAwaiting (s : State) (b : Bool) : State := { s with awaitingKey := b }

/-- `prevkey <- ks` (rule R23). -/
def State.setPrevkey (s : State) (ks : Keys) : State := { s with prevkey := ks }

/-- The pixel `FB[r][c]` (rule R21). -/
def State.pixel (s : State) (r : Fin 32) (c : Fin 64) : Bool := s.fb[r.val].getLsbD c.val

/-- The byte `mem[a]`. -/
def State.byteAt (s : State) (a : Nat) : Byte := s.mem.read a

/-! ## Control flow -/

/-- `skip` when the condition holds (rule R100): 2 more on the already advanced PC. -/
def State.skipIf (s : State) (c : Bool) : State := s.setPc (if c then s.pc + 2#16 else s.pc)

/-- `PC <- PC - 2`: the same word is fetched again (rules R175, R176). -/
def State.rewind (s : State) : State := s.setPc (s.pc - 2#16)

/-- `stack[SP] <- p; SP <- SP + 1` on a stack that is not full (rule R104). -/
def State.push (s : State) (p : Word) (h : s.sp.val < 16) : State :=
  { s with stack := s.stack.set s.sp.val p, sp := ⟨s.sp.val + 1, by omega⟩ }

/-- `SP <- SP - 1; PC <- stack[SP]` on a stack that is not empty (rule R102); the popped entry keeps its value (rule R17). -/
def State.pop (s : State) (h : 0 < s.sp.val) : State :=
  { s with sp := ⟨s.sp.val - 1, by omega⟩, pc := s.stack[s.sp.val - 1]'(by omega) }

/-! ## Faults -/

/-- Raising a fault (rule R198): the tick ends at once, no control is transferred, and the state is the one at the raise, in
which the handler has written nothing. There is no return from a fault (rule R199). -/
def raise (f : State → Fault) (s : State) : Host.Outcome State Fault Refusal := .fault (f s)

/-- The state a fault leaves. -/
def Fault.final : Fault → State
  | .outOfBoundsFetch s => s
  | .outOfBoundsData s => s
  | .illegalInstruction s => s
  | .stackUnderflow s => s
  | .stackOverflow s => s

end Sys2Proof.Machine
end

