-- ==== Sys2Proof/Machine/Flags.lean ====
section
/-! DEFINITION. The flag computations (spec/10_state.md rule R12): each gives the whole byte written to `VF`, 0x00 or 0x01; and
the order of the two writes of a flag-defining instruction (spec/42_alu.md rule R121). -/

namespace Sys2Proof.Machine

/-- The byte of a flag: the whole register is overwritten with 0x00 or 0x01 (rule R12). -/
def flagByte (c : Bool) : Byte := if c then 0x01#8 else 0x00#8

/-- Carry-out of a sum: `a + b > 255` (rules R120, R128). -/
def carryFlag (a b : Byte) : Byte := flagByte (decide (255 < a.toNat + b.toNat))

/-- The flag of a difference: the minuend is strictly greater (rules R129, R131; spec/90_conflicts.md C2). -/
def greaterFlag (minuend subtrahend : Byte) : Byte := flagByte (decide (subtrahend.toNat < minuend.toNat))

/-- The bit a right shift by one moves out, `a[0]` (rule R130). -/
def shiftRightFlag (a : Byte) : Byte := flagByte (a.getLsbD 0)

/-- The bit a left shift by one moves out, `a[7]` (rule R132). -/
def shiftLeftFlag (a : Byte) : Byte := flagByte (a.getLsbD 7)

/-- `V[x] <- result`, and last `VF <- flag`, so that with `x = 0xF` the flag stays (rule R121). -/
def State.setResultThenFlag (s : State) (x : RegIdx) (result flag : Byte) : State := (s.setV x result).setV vf flag

end Sys2Proof.Machine
end

