-- ==== Sys2Proof/Machine/Operands.lean ====
section
/-! DEFINITION. Operand forms (spec/30_encoding.md rule R63): a register, an immediate, and the implicit operands: the key
selected by `Ex9E`/`ExA1`, the block of memory at `I`, the glyph address, the BCD digits, the sprite's origin, and the key a
wait finds. -/

namespace Sys2Proof.Machine

/-- The low nibble of a byte as an index, `b[3:0]`. -/
def lowNibble (b : Byte) : RegIdx := (b.extractLsb' 0 4).toFin

/-- `ksel`, the key that `Ex9E` and `ExA1` test (rule R171): the field `x` itself, or `V[x][3:0]`. -/
def State.selectedKey (s : State) (x : RegIdx) : RegIdx :=
  match s.params.keySelect with
  | .field => x
  | .register => lowNibble (s.readV x)

/-- `key[k] = 1`: key `k` is down (rule R22). -/
def State.keyDown (s : State) (k : RegIdx) : Bool := s.key.getLsbD k.val

/-- The block of `len` bytes at `base` lies inside `mem` (rule R48): no wrap-around, `I` in its full 16 bits, and no check at
all on an empty block. -/
def blockFits (base : Word) (len : Nat) : Bool := decide (len = 0 ∨ base.toNat + len - 1 ≤ 0x0FFF)

/-- The address of the glyph of a digit: `0x050 + 5 * d` (rule R145). -/
def glyphAddress (d : RegIdx) : Word := BitVec.ofNat 16 (Config.fontBase + 5 * d.val)

/-- `(I + v) mod 0x1000`, the 12-bit address arithmetic of `Fx1E` (rule R144). -/
def indexSum (i : Word) (b : Byte) : Word := BitVec.ofNat 16 ((i.toNat + b.toNat) % 0x1000)

/-- Hundreds, tens and ones of a byte (rule R146). -/
def bcdDigits (b : Byte) : List Byte :=
  [BitVec.ofNat 8 (b.toNat / 100), BitVec.ofNat 8 (b.toNat / 10 % 10), BitVec.ofNat 8 (b.toNat % 10)]

/-- The register bank up to `V[x]` inclusive, the bytes `Fx55` stores (rule R147). -/
def State.bankUpTo (s : State) (x : RegIdx) : List Byte := s.v.toList.take (x.val + 1)

/-- The register bank after `V[0]` to `V[x]` are loaded from `base` on (rule R148). -/
def State.bankLoaded (s : State) (x : RegIdx) (base : Nat) : Vector Byte 16 :=
  Vector.ofFn fun r => if r.val ≤ x.val then s.byteAt (base + r.val) else s.readV r

/-- `qualifies(k)` of rule R176 for one key: was it down, is it down. -/
def qualifies (edge : Config.KeywaitEdge) (was now : Bool) : Bool :=
  match edge with
  | .release => was && !now
  | .press => !was && now

/-- The lowest key of a list of keys that qualifies (rule R176: "ascending; lowest qualifying index wins"). -/
def firstQualifying (edge : Config.KeywaitEdge) (prev now : Keys) : List RegIdx → Option RegIdx
  | [] => none
  | k :: ks =>
    if qualifies edge (prev.getLsbD k.val) (now.getLsbD k.val) then some k else firstQualifying edge prev now ks

/-- The sixteen keys in ascending order. -/
def allKeys : List RegIdx := [0, 1, 2, 3, 4, 5, 6, 7, 8, 9, 10, 11, 12, 13, 14, 15]

/-- `found` of rule R176 in a state. -/
def State.foundKey (s : State) : Option RegIdx := firstQualifying s.params.keywaitEdge s.prevkey s.key allKeys

/-- A key's number as a byte, `zext_8(found)`. -/
def keyByte (k : RegIdx) : Byte := BitVec.ofNat 8 k.val

end Sys2Proof.Machine
end

