-- ==== Sys2Proof/Machine/Alu.lean ====
section
/-! DEFINITION. The register, ALU, shift and random instructions (spec/42_alu.md). None can fault and none touches memory or
`PC`. Both operands are read from the state before the instruction (rule R121). -/

namespace Sys2Proof.Machine

/-- `6xkk`: `V[x] <- kk` (rule R122). -/
def execLdKk (x : RegIdx) (kk : Byte) (s : State) : Host.Outcome State Fault Refusal :=
  .next (s.setV x kk)

/-- `7xkk`: `V[x] <- (V[x] + kk) mod 256`, no flag (rule R123). -/
def execAddKk (x : RegIdx) (kk : Byte) (s : State) : Host.Outcome State Fault Refusal :=
  .next (s.setV x (s.readV x + kk))

/-- `8xy0`: `V[x] <- V[y]` (rule R124). -/
def execLdVy (x y : RegIdx) (s : State) : Host.Outcome State Fault Refusal :=
  .next (s.setV x (s.readV y))

/-- `8xy1`: `V[x] <- V[x] | V[y]`, `VF` unchanged (rule R125). -/
def execOrVy (x y : RegIdx) (s : State) : Host.Outcome State Fault Refusal :=
  .next (s.setV x (s.readV x ||| s.readV y))

/-- `8xy2`: `V[x] <- V[x] & V[y]`, `VF` unchanged (rule R126). -/
def execAndVy (x y : RegIdx) (s : State) : Host.Outcome State Fault Refusal :=
  .next (s.setV x (s.readV x &&& s.readV y))

/-- `8xy3`: `V[x] <- V[x] ^ V[y]`, `VF` unchanged (rule R127). -/
def execXorVy (x y : RegIdx) (s : State) : Host.Outcome State Fault Refusal :=
  .next (s.setV x (s.readV x ^^^ s.readV y))

/-- `8xy4`: the sum mod 256, `VF` the carry (rule R128). -/
def execAddVy (x y : RegIdx) (s : State) : Host.Outcome State Fault Refusal :=
  .next (s.setResultThenFlag x (s.readV x + s.readV y) (carryFlag (s.readV x) (s.readV y)))

/-- `8xy5`: `V[x] - V[y]` mod 256, `VF` is 1 exactly when `V[x] > V[y]` (rule R129). -/
def execSubVy (x y : RegIdx) (s : State) : Host.Outcome State Fault Refusal :=
  .next (s.setResultThenFlag x (s.readV x - s.readV y) (greaterFlag (s.readV x) (s.readV y)))

/-- `8xy6`: `V[x] >> 1`, `VF` the old bit 0; the field `y` is ignored (rules R66, R130). -/
def execShr (x _y : RegIdx) (s : State) : Host.Outcome State Fault Refusal :=
  .next (s.setResultThenFlag x (s.readV x >>> 1) (shiftRightFlag (s.readV x)))

/-- `8xy7`: `V[y] - V[x]` mod 256, `VF` is 1 exactly when `V[y] > V[x]` (rule R131). -/
def execSubnVy (x y : RegIdx) (s : State) : Host.Outcome State Fault Refusal :=
  .next (s.setResultThenFlag x (s.readV y - s.readV x) (greaterFlag (s.readV y) (s.readV x)))

/-- `8xyE`: `V[x] << 1` mod 256, `VF` the old bit 7; the field `y` is ignored (rules R66, R132). -/
def execShl (x _y : RegIdx) (s : State) : Host.Outcome State Fault Refusal :=
  .next (s.setResultThenFlag x (s.readV x <<< 1) (shiftLeftFlag (s.readV x)))

/-- `Cxkk`: `V[x] <- rnd & kk`, where `rnd` is the input of the tick in progress (rules R81, R133). -/
def execRnd (x : RegIdx) (kk : Byte) (s : State) : Host.Outcome State Fault Refusal :=
  .next (s.setV x (s.rnd &&& kk))

end Sys2Proof.Machine
end

