-- ==== Sys2Proof/Machine/ControlFlow.lean ====
section
/-! DEFINITION. The no-ops, jumps, the call stack and the conditional skips (spec/40_cycle.md rule R84,
spec/41_control_flow.md). In every handler `PC` already holds the address of the instruction plus 2 (rule R83). -/

namespace Sys2Proof.Machine

/-- `0000`: nothing (rule R84). -/
def execNop (s : State) : Host.Outcome State Fault Refusal :=
  .next s

/-- `0nnn`: nothing; `nnn` is ignored (rule R101). -/
def execSys (_nnn : Addr12) (s : State) : Host.Outcome State Fault Refusal :=
  .next s

/-- `00EE`: pops the stack into `PC`, or raises `StackUnderflow` when it is empty (rules R102, R194). -/
def execRet (s : State) : Host.Outcome State Fault Refusal :=
  if h : 0 < s.sp.val then .next (s.pop h) else raise .stackUnderflow s

/-- `1nnn`: `PC <- zext_16(nnn)` (rule R103). -/
def execJp (nnn : Addr12) (s : State) : Host.Outcome State Fault Refusal :=
  .next (s.setPc (nnn.setWidth 16))

/-- `2nnn`: pushes `PC`, the return address, and jumps, or raises `StackOverflow` when sixteen entries are on the stack
(rules R104, R195). -/
def execCall (nnn : Addr12) (s : State) : Host.Outcome State Fault Refusal :=
  if h : s.sp.val < 16 then .next ((s.push s.pc h).setPc (nnn.setWidth 16)) else raise .stackOverflow s

/-- `3xkk`: skip if `V[x] = kk` (rule R105). -/
def execSeKk (x : RegIdx) (kk : Byte) (s : State) : Host.Outcome State Fault Refusal :=
  .next (s.skipIf (s.readV x == kk))

/-- `4xkk`: skip if `V[x] != kk` (rule R106). -/
def execSneKk (x : RegIdx) (kk : Byte) (s : State) : Host.Outcome State Fault Refusal :=
  .next (s.skipIf (s.readV x != kk))

/-- `5xy0`: skip if `V[x] = V[y]` (rule R107). -/
def execSeVy (x y : RegIdx) (s : State) : Host.Outcome State Fault Refusal :=
  .next (s.skipIf (s.readV x == s.readV y))

/-- `9xy0`: skip if `V[x] != V[y]` (rule R108). -/
def execSneVy (x y : RegIdx) (s : State) : Host.Outcome State Fault Refusal :=
  .next (s.skipIf (s.readV x != s.readV y))

/-- `Bnnn`: `PC <- zext_16(nnn) + zext_16(V[0])`, not reduced (rule R109). -/
def execJpV0 (nnn : Addr12) (s : State) : Host.Outcome State Fault Refusal :=
  .next (s.setPc (nnn.setWidth 16 + (s.readV 0).setWidth 16))

end Sys2Proof.Machine
end

