-- ==== Sys2Proof/Machine/Display.lean ====
section
/-! DEFINITION. The display instructions and the sprite-draw collision detector (spec/44_display.md). -/

namespace Sys2Proof.Machine

/-- Every pixel OFF (rule R161). -/
def blankScreen : Vector Row 32 := Vector.replicate 32 0#64

/-- One column `c` of one sprite row `b` drawn at screen column `cx`: a set bit `7 - c` flips its pixel and reports a hit when
the pixel was ON (rules R160, R162, R163). -/
def drawColumn (cx : Nat) (b : Byte) (acc : Row × Bool) (c : Nat) : Row × Bool :=
  if b.getLsbD (7 - c) then (acc.1 ^^^ 1#64 <<< ((cx + c) % 64), acc.2 || acc.1.getLsbD ((cx + c) % 64)) else acc

/-- The eight columns of one sprite row, left to right (rule R162). -/
def drawRow (cx : Nat) (b : Byte) (row : Row) : Row × Bool := (List.range 8).foldl (drawColumn cx b) (row, false)

/-- The sprite rows from the top down, the first at screen row `cy`, each wrapped to `cy mod 32` (rules R160, R162). -/
def drawSprite (cx : Nat) : Nat → List Byte → Vector Row 32 × Bool → Vector Row 32 × Bool
  | _, [], acc => acc
  | cy, b :: bs, acc =>
    drawSprite cx (cy + 1) bs
      (acc.1.set (cy % 32) (drawRow cx b (acc.1[cy % 32]'(Nat.mod_lt cy (by decide)))).1 (Nat.mod_lt cy (by decide)),
        acc.2 || (drawRow cx b (acc.1[cy % 32]'(Nat.mod_lt cy (by decide)))).2)

/-- The frame buffer and the collision that `Dxyn` leaves: the sprite of `n` bytes at `I`, with its origin reduced into the
screen (rules R160, R162). -/
def State.drawn (s : State) (x y : RegIdx) (n : Nibble) : Vector Row 32 × Bool :=
  drawSprite ((s.readV x).toNat % 64) ((s.readV y).toNat % 32) (s.mem.readBytes s.index.toNat n.toNat) (s.fb, false)

/-- `00E0`: clears the frame buffer and sets `display_dirty` (rule R161). -/
def execCls (s : State) : Host.Outcome State Fault Refusal :=
  .next (s.setScreen blankScreen)

/-- `Dxyn`: draws the sprite, writes `VF` last, sets `display_dirty`; with `n = 0` there is no bound to check and nothing is
drawn (rules R48, R162). -/
def execDrw (x y : RegIdx) (n : Nibble) (s : State) : Host.Outcome State Fault Refusal :=
  if blockFits s.index n.toNat then .next ((s.setScreen (s.drawn x y n).1).setV vf (flagByte (s.drawn x y n).2))
  else raise .outOfBoundsData s

end Sys2Proof.Machine
end

