-- ==== Sys2Proof/Machine/Input.lean ====
section
/-! DEFINITION. The key instructions and the key-wait state machine (spec/45_input.md). None of them can fault. -/

namespace Sys2Proof.Machine

/-- `Ex9E`: skip if the selected key is down (rules R171, R172). -/
def execSkp (x : RegIdx) (s : State) : Host.Outcome State Fault Refusal :=
  .next (s.skipIf (s.keyDown (s.selectedKey x)))

/-- `ExA1`: skip if the selected key is up (rules R171, R173). -/
def execSknp (x : RegIdx) (s : State) : Host.Outcome State Fault Refusal :=
  .next (s.skipIf (!s.keyDown (s.selectedKey x)))

/-- The wait stays pending: `prevkey <- key` and `PC` back to the instruction (rules R175, R176). -/
def State.stayWaiting (s : State) : State := (s.setPrevkey s.key).rewind

/-- The entering tick (rule R175): no key is compared. -/
def State.enterWait (s : State) : State := s.stayWaiting.setAwaiting true

/-- A waiting tick (rule R176): the lowest qualifying key resolves the wait and leaves `prevkey` as it is; with none the wait
stays pending. -/
def State.waitTick (s : State) (x : RegIdx) : State :=
  match s.foundKey with
  | some k => (s.setV x (keyByte k)).setAwaiting false
  | none => s.stayWaiting

/-- `Fx0A`: entering or waiting, by `awaiting_key` (rule R174). -/
def execLdVxK (x : RegIdx) (s : State) : Host.Outcome State Fault Refusal :=
  .next (if s.awaitingKey then s.waitTick x else s.enterWait)

end Sys2Proof.Machine
end

