-- ==== Sys2Proof/Machine/MemoryTimer.lean ====
section
/-! DEFINITION. The index register, the timers, BCD and the register block transfers (spec/43_memory_timer_misc.md). The bound
of rule R48 is checked for the whole block before anything is written (rule R193); `I` is never changed by an access
(rule R16). -/

namespace Sys2Proof.Machine

/-- `Annn`: `I <- zext_16(nnn)` (rule R140). -/
def execLdI (nnn : Addr12) (s : State) : Host.Outcome State Fault Refusal :=
  .next (s.setIndex (nnn.setWidth 16))

/-- `Fx07`: `V[x] <- DT`, the value before this tick's decay (rules R141, R203). -/
def execLdVxDt (x : RegIdx) (s : State) : Host.Outcome State Fault Refusal :=
  .next (s.setV x s.dt)

/-- `Fx15`: `DT <- V[x]` (rule R142). -/
def execLdDt (x : RegIdx) (s : State) : Host.Outcome State Fault Refusal :=
  .next (s.setDt (s.readV x))

/-- `Fx18`: `ST <- V[x]` (rule R143). -/
def execLdSt (x : RegIdx) (s : State) : Host.Outcome State Fault Refusal :=
  .next (s.setSt (s.readV x))

/-- `Fx1E`: `I <- (I + zext_16(V[x])) mod 0x1000`, no flag (rule R144). -/
def execAddI (x : RegIdx) (s : State) : Host.Outcome State Fault Refusal :=
  .next (s.setIndex (indexSum s.index (s.readV x)))

/-- `Fx29`: `I <-` the glyph address of `V[x][3:0]` (rule R145). -/
def execLdF (x : RegIdx) (s : State) : Host.Outcome State Fault Refusal :=
  .next (s.setIndex (glyphAddress (lowNibble (s.readV x))))

/-- `Fx33`: the three BCD digits of `V[x]` at `I`, `I + 1`, `I + 2` (rules R146, R193). -/
def execLdB (x : RegIdx) (s : State) : Host.Outcome State Fault Refusal :=
  if blockFits s.index 3 then .next (s.setMem (s.mem.storeBytes s.index.toNat (bcdDigits (s.readV x))))
  else raise .outOfBoundsData s

/-- `Fx55`: stores `V[0]` to `V[x]` from `I` on (rules R147, R193). -/
def execStoreRegs (x : RegIdx) (s : State) : Host.Outcome State Fault Refusal :=
  if blockFits s.index (x.val + 1) then .next (s.setMem (s.mem.storeBytes s.index.toNat (s.bankUpTo x)))
  else raise .outOfBoundsData s

/-- `Fx65`: loads `V[0]` to `V[x]` from `I` on (rules R148, R193). -/
def execLoadRegs (x : RegIdx) (s : State) : Host.Outcome State Fault Refusal :=
  if blockFits s.index (x.val + 1) then .next (s.setBank (s.bankLoaded x s.index.toNat))
  else raise .outOfBoundsData s

end Sys2Proof.Machine
end

