-- ==== Sys2Proof/Syntax.lean ====
section
/-! DEFINITION. The instructions: one constructor for each of the 36 rows of rule R64 (spec/30_encoding.md), in the
table's order, with the operand fields of rule R61. -/

namespace Sys2Proof

/-- An instruction. `shr` and `shl` carry the field `y`, which rule R66 has the machine ignore, so that no bit of a word is
lost between decoding and encoding (assumption 14). -/
inductive Instr where
  /-- `0000` NOP, rule R84. -/
  | nop
  /-- `00E0` CLS, rule R161. -/
  | cls
  /-- `00EE` RET, rule R102. -/
  | ret
  /-- `0nnn` SYS nnn, rule R101. -/
  | sys (nnn : Addr12)
  /-- `1nnn` JP nnn, rule R103. -/
  | jp (nnn : Addr12)
  /-- `2nnn` CALL nnn, rule R104. -/
  | call (nnn : Addr12)
  /-- `3xkk` SE Vx, kk, rule R105. -/
  | seKk (x : RegIdx) (kk : Byte)
  /-- `4xkk` SNE Vx, kk, rule R106. -/
  | sneKk (x : RegIdx) (kk : Byte)
  /-- `5xy0` SE Vx, Vy, rule R107. -/
  | seVy (x y : RegIdx)
  /-- `6xkk` LD Vx, kk, rule R122. -/
  | ldKk (x : RegIdx) (kk : Byte)
  /-- `7xkk` ADD Vx, kk, rule R123. -/
  | addKk (x : RegIdx) (kk : Byte)
  /-- `8xy0` LD Vx, Vy, rule R124. -/
  | ldVy (x y : RegIdx)
  /-- `8xy1` OR Vx, Vy, rule R125. -/
  | orVy (x y : RegIdx)
  /-- `8xy2` AND Vx, Vy, rule R126. -/
  | andVy (x y : RegIdx)
  /-- `8xy3` XOR Vx, Vy, rule R127. -/
  | xorVy (x y : RegIdx)
  /-- `8xy4` ADD Vx, Vy, rule R128. -/
  | addVy (x y : RegIdx)
  /-- `8xy5` SUB Vx, Vy, rule R129. -/
  | subVy (x y : RegIdx)
  /-- `8xy6` SHR Vx, rule R130. -/
  | shr (x y : RegIdx)
  /-- `8xy7` SUBN Vx, Vy, rule R131. -/
  | subnVy (x y : RegIdx)
  /-- `8xyE` SHL Vx, rule R132. -/
  | shl (x y : RegIdx)
  /-- `9xy0` SNE Vx, Vy, rule R108. -/
  | sneVy (x y : RegIdx)
  /-- `Annn` LD I, nnn, rule R140. -/
  | ldI (nnn : Addr12)
  /-- `Bnnn` JP V0, nnn, rule R109. -/
  | jpV0 (nnn : Addr12)
  /-- `Cxkk` RND Vx, kk, rule R133. -/
  | rnd (x : RegIdx) (kk : Byte)
  /-- `Dxyn` DRW Vx, Vy, n, rule R162. -/
  | drw (x y : RegIdx) (n : Nibble)
  /-- `Ex9E` SKP x, rule R172. -/
  | skp (x : RegIdx)
  /-- `ExA1` SKNP x, rule R173. -/
  | sknp (x : RegIdx)
  /-- `Fx07` LD Vx, DT, rule R141. -/
  | ldVxDt (x : RegIdx)
  /-- `Fx0A` LD Vx, K, rule R174. -/
  | ldVxK (x : RegIdx)
  /-- `Fx15` LD DT, Vx, rule R142. -/
  | ldDt (x : RegIdx)
  /-- `Fx18` LD ST, Vx, rule R143. -/
  | ldSt (x : RegIdx)
  /-- `Fx1E` ADD I, Vx, rule R144. -/
  | addI (x : RegIdx)
  /-- `Fx29` LD F, Vx, rule R145. -/
  | ldF (x : RegIdx)
  /-- `Fx33` LD B, Vx, rule R146. -/
  | ldB (x : RegIdx)
  /-- `Fx55` LD [I], Vx, rule R147. -/
  | storeRegs (x : RegIdx)
  /-- `Fx65` LD Vx, [I], rule R148. -/
  | loadRegs (x : RegIdx)
  deriving DecidableEq, Repr

end Sys2Proof
end

