-- ==== Sys2Proof/Decode.lean ====
section
/-! DEFINITION. The decoder of spec/30_encoding.md: fields (rule R61), selection (rules R64, R65), the illegal words by name
(rule R67); after it the encoder, written from the same table, and the fixed name `decodeTableWord`. -/

namespace Sys2Proof

/-- Why no instruction is read from some bytes. -/
inductive DecodeError where
  /-- Fewer than the two bytes of rule R60. -/
  | truncated
  /-- The word matches no row of rule R64: it is illegal (rule R67). -/
  | illegal (w : Word)
  deriving DecidableEq, Repr

/-- The record of fields the decoder extracts from every word (rule R61). -/
structure Fields where
  family : Nibble
  x      : RegIdx
  y      : RegIdx
  n      : Nibble
  kk     : Byte
  nnn    : Addr12
  deriving DecidableEq, Repr

/-- A nibble as the index it names (rule R10: "always in range 0–15 by construction of the decode step"). -/
def regOf (b : Nibble) : RegIdx := b.toFin

/-- Field extraction, total on every word (rules R61 and R62). -/
def fieldsOf (w : Word) : Fields :=
  { family := w.extractLsb' 12 4
    x      := regOf (w.extractLsb' 8 4)
    y      := regOf (w.extractLsb' 4 4)
    n      := w.extractLsb' 0 4
    kk     := w.extractLsb' 0 8
    nnn    := w.extractLsb' 0 12 }

/-- Family 0x0: the exact words of rows 1 to 3 come before row 4 (rule R65). -/
def decodeFamily0 (nnn : Addr12) : Instr :=
  match nnn with
  | 0x000#12 => .nop
  | 0x0E0#12 => .cls
  | 0x0EE#12 => .ret
  | nnn => .sys nnn

/-- Family 0x8, by the secondary selector `n` (rule R64): "Any other N is illegal" (rule R67). -/
def decodeFamily8 (x y : RegIdx) (n : Nibble) : Option Instr :=
  match n with
  | 0x0#4 => some (.ldVy x y)
  | 0x1#4 => some (.orVy x y)
  | 0x2#4 => some (.andVy x y)
  | 0x3#4 => some (.xorVy x y)
  | 0x4#4 => some (.addVy x y)
  | 0x5#4 => some (.subVy x y)
  | 0x6#4 => some (.shr x y)
  | 0x7#4 => some (.subnVy x y)
  | 0xE#4 => some (.shl x y)
  | _ => none

/-- Family 0xE, by the secondary selector `kk` (rules R64 and R67). -/
def decodeFamilyE (x : RegIdx) (kk : Byte) : Option Instr :=
  match kk with
  | 0x9E#8 => some (.skp x)
  | 0xA1#8 => some (.sknp x)
  | _ => none

/-- Family 0xF, by the secondary selector `kk` (rules R64 and R67): "Any other low byte is illegal". -/
def decodeFamilyF (x : RegIdx) (kk : Byte) : Option Instr :=
  match kk with
  | 0x07#8 => some (.ldVxDt x)
  | 0x0A#8 => some (.ldVxK x)
  | 0x15#8 => some (.ldDt x)
  | 0x18#8 => some (.ldSt x)
  | 0x1E#8 => some (.addI x)
  | 0x29#8 => some (.ldF x)
  | 0x33#8 => some (.ldB x)
  | 0x55#8 => some (.storeRegs x)
  | 0x65#8 => some (.loadRegs x)
  | _ => none

/-- Selection by family, then by the secondary selector; families 0x5 and 0x9 require `n = 0` (rules R64 and R65,
spec/90_conflicts.md C5). -/
def selectInstr (f : Fields) : Option Instr :=
  match f.family with
  | 0x0#4 => some (decodeFamily0 f.nnn)
  | 0x1#4 => some (.jp f.nnn)
  | 0x2#4 => some (.call f.nnn)
  | 0x3#4 => some (.seKk f.x f.kk)
  | 0x4#4 => some (.sneKk f.x f.kk)
  | 0x5#4 => if f.n = 0x0#4 then some (.seVy f.x f.y) else none
  | 0x6#4 => some (.ldKk f.x f.kk)
  | 0x7#4 => some (.addKk f.x f.kk)
  | 0x8#4 => decodeFamily8 f.x f.y f.n
  | 0x9#4 => if f.n = 0x0#4 then some (.sneVy f.x f.y) else none
  | 0xA#4 => some (.ldI f.nnn)
  | 0xB#4 => some (.jpV0 f.nnn)
  | 0xC#4 => some (.rnd f.x f.kk)
  | 0xD#4 => some (.drw f.x f.y f.n)
  | 0xE#4 => decodeFamilyE f.x f.kk
  | _ => decodeFamilyF f.x f.kk

/-- The instruction a word stands for, or the word named as illegal (rules R65 and R67). The zero word is row 1, `NOP`,
which the cycle driver tests before decode to the same effect (rule R84, assumption 15). -/
def decodeWord (w : Word) : Except DecodeError Instr :=
  match selectInstr (fieldsOf w) with
  | some i => .ok i
  | none => .error (.illegal w)

/-- The two bytes of a word as memory holds them, the high byte at the lower address (rule R40). -/
def wordBytes (w : Word) : List Byte := [w.extractLsb' 8 8, w.extractLsb' 0 8]

/-- The word two bytes make: the first is the high byte (rule R40). -/
def wordOfBytes (hi lo : Byte) : Word := hi ++ lo

/-- The instruction at the head of some bytes, and the bytes after it; every instruction is exactly two bytes
(rule R60). -/
def decodeBytes : List Byte → Except DecodeError (Instr × List Byte)
  | hi :: lo :: rest =>
    match decodeWord (wordOfBytes hi lo) with
    | .ok i => .ok (i, rest)
    | .error e => .error e
  | _ => .error .truncated

/-- A register index as the nibble that names it. -/
def nibble (x : RegIdx) : Nibble := BitVec.ofFin x

/-- The word of an instruction, from the patterns of rule R64. -/
def encode : Instr → Word
  | .nop => 0x0000#16
  | .cls => 0x00E0#16
  | .ret => 0x00EE#16
  | .sys nnn => 0x0#4 ++ nnn
  | .jp nnn => 0x1#4 ++ nnn
  | .call nnn => 0x2#4 ++ nnn
  | .seKk x kk => 0x3#4 ++ nibble x ++ kk
  | .sneKk x kk => 0x4#4 ++ nibble x ++ kk
  | .seVy x y => 0x5#4 ++ nibble x ++ nibble y ++ 0x0#4
  | .ldKk x kk => 0x6#4 ++ nibble x ++ kk
  | .addKk x kk => 0x7#4 ++ nibble x ++ kk
  | .ldVy x y => 0x8#4 ++ nibble x ++ nibble y ++ 0x0#4
  | .orVy x y => 0x8#4 ++ nibble x ++ nibble y ++ 0x1#4
  | .andVy x y => 0x8#4 ++ nibble x ++ nibble y ++ 0x2#4
  | .xorVy x y => 0x8#4 ++ nibble x ++ nibble y ++ 0x3#4
  | .addVy x y => 0x8#4 ++ nibble x ++ nibble y ++ 0x4#4
  | .subVy x y => 0x8#4 ++ nibble x ++ nibble y ++ 0x5#4
  | .shr x y => 0x8#4 ++ nibble x ++ nibble y ++ 0x6#4
  | .subnVy x y => 0x8#4 ++ nibble x ++ nibble y ++ 0x7#4
  | .shl x y => 0x8#4 ++ nibble x ++ nibble y ++ 0xE#4
  | .sneVy x y => 0x9#4 ++ nibble x ++ nibble y ++ 0x0#4
  | .ldI nnn => 0xA#4 ++ nnn
  | .jpV0 nnn => 0xB#4 ++ nnn
  | .rnd x kk => 0xC#4 ++ nibble x ++ kk
  | .drw x y n => 0xD#4 ++ nibble x ++ nibble y ++ n
  | .skp x => 0xE#4 ++ nibble x ++ 0x9E#8
  | .sknp x => 0xE#4 ++ nibble x ++ 0xA1#8
  | .ldVxDt x => 0xF#4 ++ nibble x ++ 0x07#8
  | .ldVxK x => 0xF#4 ++ nibble x ++ 0x0A#8
  | .ldDt x => 0xF#4 ++ nibble x ++ 0x15#8
  | .ldSt x => 0xF#4 ++ nibble x ++ 0x18#8
  | .addI x => 0xF#4 ++ nibble x ++ 0x1E#8
  | .ldF x => 0xF#4 ++ nibble x ++ 0x29#8
  | .ldB x => 0xF#4 ++ nibble x ++ 0x33#8
  | .storeRegs x => 0xF#4 ++ nibble x ++ 0x55#8
  | .loadRegs x => 0xF#4 ++ nibble x ++ 0x65#8

/-- The bytes of an instruction as memory holds them (rules R40 and R60). -/
def encodeBytes (i : Instr) : List Byte := wordBytes (encode i)

/-- The decoder on a word numbered as spec/opcode_table.json numbers it: the bits above `nbits` are 0, the bytes are laid out
as memory holds them, and the decoder reads them. -/
def decodeTableWord (nbits w : Nat) : Option Instr :=
  match decodeBytes (wordBytes (BitVec.ofNat 16 (w % 2 ^ nbits))) with
  | .ok (i, _) => some i
  | .error _ => none

/-- A row of the table of rule R64: a word `w` is the instruction when `w &&& mask = pattern`, subject to the priority of
rule R65. -/
structure OpcodeRow where
  row     : Nat
  mask    : Word
  pattern : Word
  deriving DecidableEq, Repr

/-- The test of rule R64. -/
def OpcodeRow.selects (r : OpcodeRow) (w : Word) : Bool := w &&& r.mask == r.pattern

/-- The table of rule R64, in its order, which is the priority of rule R65. -/
def opcodeTable : List OpcodeRow :=
  [ { row := 1, mask := 0xFFFF#16, pattern := 0x0000#16 },  -- 0000
    { row := 2, mask := 0xFFFF#16, pattern := 0x00E0#16 },  -- 00E0
    { row := 3, mask := 0xFFFF#16, pattern := 0x00EE#16 },  -- 00EE
    { row := 4, mask := 0xF000#16, pattern := 0x0000#16 },  -- 0nnn
    { row := 5, mask := 0xF000#16, pattern := 0x1000#16 },  -- 1nnn
    { row := 6, mask := 0xF000#16, pattern := 0x2000#16 },  -- 2nnn
    { row := 7, mask := 0xF000#16, pattern := 0x3000#16 },  -- 3xkk
    { row := 8, mask := 0xF000#16, pattern := 0x4000#16 },  -- 4xkk
    { row := 9, mask := 0xF00F#16, pattern := 0x5000#16 },  -- 5xy0
    { row := 10, mask := 0xF000#16, pattern := 0x6000#16 },  -- 6xkk
    { row := 11, mask := 0xF000#16, pattern := 0x7000#16 },  -- 7xkk
    { row := 12, mask := 0xF00F#16, pattern := 0x8000#16 },  -- 8xy0
    { row := 13, mask := 0xF00F#16, pattern := 0x8001#16 },  -- 8xy1
    { row := 14, mask := 0xF00F#16, pattern := 0x8002#16 },  -- 8xy2
    { row := 15, mask := 0xF00F#16, pattern := 0x8003#16 },  -- 8xy3
    { row := 16, mask := 0xF00F#16, pattern := 0x8004#16 },  -- 8xy4
    { row := 17, mask := 0xF00F#16, pattern := 0x8005#16 },  -- 8xy5
    { row := 18, mask := 0xF00F#16, pattern := 0x8006#16 },  -- 8xy6
    { row := 19, mask := 0xF00F#16, pattern := 0x8007#16 },  -- 8xy7
    { row := 20, mask := 0xF00F#16, pattern := 0x800E#16 },  -- 8xyE
    { row := 21, mask := 0xF00F#16, pattern := 0x9000#16 },  -- 9xy0
    { row := 22, mask := 0xF000#16, pattern := 0xA000#16 },  -- Annn
    { row := 23, mask := 0xF000#16, pattern := 0xB000#16 },  -- Bnnn
    { row := 24, mask := 0xF000#16, pattern := 0xC000#16 },  -- Cxkk
    { row := 25, mask := 0xF000#16, pattern := 0xD000#16 },  -- Dxyn
    { row := 26, mask := 0xF0FF#16, pattern := 0xE09E#16 },  -- Ex9E
    { row := 27, mask := 0xF0FF#16, pattern := 0xE0A1#16 },  -- ExA1
    { row := 28, mask := 0xF0FF#16, pattern := 0xF007#16 },  -- Fx07
    { row := 29, mask := 0xF0FF#16, pattern := 0xF00A#16 },  -- Fx0A
    { row := 30, mask := 0xF0FF#16, pattern := 0xF015#16 },  -- Fx15
    { row := 31, mask := 0xF0FF#16, pattern := 0xF018#16 },  -- Fx18
    { row := 32, mask := 0xF0FF#16, pattern := 0xF01E#16 },  -- Fx1E
    { row := 33, mask := 0xF0FF#16, pattern := 0xF029#16 },  -- Fx29
    { row := 34, mask := 0xF0FF#16, pattern := 0xF033#16 },  -- Fx33
    { row := 35, mask := 0xF0FF#16, pattern := 0xF055#16 },  -- Fx55
    { row := 36, mask := 0xF0FF#16, pattern := 0xF065#16 }]  -- Fx65

/-- The row of rule R64 an instruction belongs to. -/
def Instr.row : Instr → Nat
  | .nop => 1
  | .cls => 2
  | .ret => 3
  | .sys _ => 4
  | .jp _ => 5
  | .call _ => 6
  | .seKk _ _ => 7
  | .sneKk _ _ => 8
  | .seVy _ _ => 9
  | .ldKk _ _ => 10
  | .addKk _ _ => 11
  | .ldVy _ _ => 12
  | .orVy _ _ => 13
  | .andVy _ _ => 14
  | .xorVy _ _ => 15
  | .addVy _ _ => 16
  | .subVy _ _ => 17
  | .shr _ _ => 18
  | .subnVy _ _ => 19
  | .shl _ _ => 20
  | .sneVy _ _ => 21
  | .ldI _ => 22
  | .jpV0 _ => 23
  | .rnd _ _ => 24
  | .drw _ _ _ => 25
  | .skp _ => 26
  | .sknp _ => 27
  | .ldVxDt _ => 28
  | .ldVxK _ => 29
  | .ldDt _ => 30
  | .ldSt _ => 31
  | .addI _ => 32
  | .ldF _ => 33
  | .ldB _ => 34
  | .storeRegs _ => 35
  | .loadRegs _ => 36

end Sys2Proof
end

