-- ==== Sys2Proof/Machine/Tick.lean ====
section
/-! DEFINITION. What a tick does around the instruction (spec/40_cycle.md rule R80): the inputs (S0), the fetch (S1, S2), the
timer decay (S5), and placing a word where the next tick fetches it. -/

namespace Sys2Proof.Machine

/-- The inputs of the coming tick: the first of the list, else free values (rule R81, assumption 1). -/
def State.nextInput (s : State) : TickInput :=
  match s.inputs with
  | inp :: _ => inp
  | [] =>
    { redrawn := Config.freeRedrawn s.ticks, keys := Config.freeKeys s.ticks, rnd := Config.freeRnd s.ticks }

/-- Step S0: `key <- keys` (rule R81), and the random byte of this tick. The host's redraw, which clears `display_dirty`
between ticks (rules R25, R164), comes first. -/
def State.sampled (s : State) : State :=
  { s with
    displayDirty := s.displayDirty && !s.nextInput.redrawn
    key := s.nextInput.keys
    rnd := s.nextInput.rnd
    inputs := s.inputs.tail
    ticks := s.ticks + 1 }

/-- Steps S1 and S2: the big-endian word at `PC`, or nothing when `PC > 0x0FFE` (rules R40, R82, R83). -/
def State.fetchWord (s : State) : Option Word :=
  if s.pc.toNat ≤ 0x0FFE then some (wordOfBytes (s.byteAt s.pc.toNat) (s.byteAt (s.pc.toNat + 1))) else none

/-- Step S2: `PC <- PC + 2`, before dispatch (rule R83). -/
def State.advancePc (s : State) : State := s.setPc (s.pc + 2#16)

/-- One timer's decay: 1 less while above zero, stuck at 0 (rule R202). -/
def decayed (b : Byte) : Byte := if b = 0x00#8 then b else b - 1#8

/-- Step S5: both timers decay (rules R86, R202). -/
def State.decayTimers (s : State) : State := { s with dt := decayed s.dt, st := decayed s.st }

/-- What follows the handler: the timers decay on success and on nothing else (rules R85, R86). -/
def finishTick : Host.Outcome State Fault Refusal → Host.Outcome State Fault Refusal
  | .next s => .next s.decayTimers
  | .fault f => .fault f
  | .refused r => .refused r

/-- A word stored, big-endian, where the next tick fetches; a `PC` from which no fetch is possible goes to 0x200 first
(assumption 2). -/
def State.storeFetchWord (s : State) (w : Word) : State :=
  if s.pc.toNat ≤ 0x0FFE then s.setMem (s.mem.storeBytes s.pc.toNat (wordBytes w))
  else (s.setPc 0x0200#16).setMem (s.mem.storeBytes Config.progBase (wordBytes w))

end Sys2Proof.Machine
end

