-- ==== Sys2Proof/Machine/Step.lean ====
section
/-! DEFINITION. One tick (spec/40_cycle.md rule R80), and the fixed name `withFetchWord`. -/

namespace Sys2Proof.Machine

/-- Step S4 (rule R85): the fetched word is decoded and its handler runs on the advanced `PC`, or it is illegal
(rules R67, R192). -/
def runWord (w : Word) (s : State) : Host.Outcome State Fault Refusal :=
  match decodeWord w with
  | .ok i => finishTick (exec i s)
  | .error _ => raise .illegalInstruction s

/-- The tick of rule R80: S0, then the fetch or its fault (S1), then S2 to S5. -/
def step (s : State) : Host.Outcome State Fault Refusal :=
  match s.sampled.fetchWord with
  | some w => runWord w s.sampled.advancePc
  | none => raise .outOfBoundsFetch s.sampled

/-- The state in which the very next step fetches and runs the word `w` (bits above `nbits` zero). It stands for the load of
rule R225 (assumption 2). -/
def State.withFetchWord (s : State) (nbits w : Nat) : State := s.storeFetchWord (BitVec.ofNat 16 (w % 2 ^ nbits))

end Sys2Proof.Machine
end

