-- ==== Sys2Proof/Machine/Loader.lean ====
section
/-! DEFINITION. What the host does before the first tick (spec/70_reset_and_hazards.md): reset with its own parameters
(rule R220) and the program load (rules R225, R226). -/

namespace Sys2Proof.Machine

/-- Reset of a machine with its own parameters (rules R5, R220): its `FONT` is written at 0x050 over the reset contents. -/
def State.resetWith (params : Config.Params) : State :=
  { State.reset with params := params, mem := Memory.storeBytes [] Config.fontBase params.font.bytes }

/-- The launch premise on a program image: even length, at most `ROM_MAX_LEN` (rule R226). -/
def loadable (romMaxLen : Config.RomMaxLen) (program : List Byte) : Bool :=
  decide (program.length ≤ romMaxLen.bytes) && decide (program.length % 2 = 0)

/-- `Load(p, L)` (rule R225): the bytes from 0x200 on and nothing else. No image that breaks the premise for this machine's
`ROM_MAX_LEN` is loaded (assumption 20). -/
def State.load (s : State) (program : List Byte) : Option State :=
  if loadable s.params.romMaxLen program then some (s.setMem (s.mem.storeBytes Config.progBase program)) else none

end Sys2Proof.Machine
end

