-- ==== Sys2Proof/Machine/Result.lean ====
section
/-! DEFINITION. The result record of a tick (spec/40_cycle.md rule R87), an output and not state (rule R29): computed from the
state before the tick (assumption 6). -/

namespace Sys2Proof.Machine

/-- The fault field of the result record (rules R87, R190). -/
inductive FaultCode where
  | none
  | outOfBounds
  | illegalInstruction
  | stackUnderflow
  | stackOverflow
  deriving DecidableEq, Repr

/-- The numbers of rule R190. -/
def FaultCode.number : FaultCode → BitVec 3
  | .none => 0
  | .outOfBounds => 1
  | .illegalInstruction => 2
  | .stackUnderflow => 3
  | .stackOverflow => 4

/-- The code a fault reports; its two `OutOfBounds` causes share one (rule R193). -/
def Fault.code : Fault → FaultCode
  | .outOfBoundsFetch _ => .outOfBounds
  | .outOfBoundsData _ => .outOfBounds
  | .illegalInstruction _ => .illegalInstruction
  | .stackUnderflow _ => .stackUnderflow
  | .stackOverflow _ => .stackOverflow

/-- The result record (rule R87). `instr` is absent when nothing was fetched, where the spec leaves it unspecified and names
this treatment (spec/92_eei_decisions.md D15). -/
structure ResultRecord where
  instr : Option Word
  pc    : Word
  fault : FaultCode
  deriving DecidableEq, Repr

/-- The result record of the tick taken from `s`: the word fetched, `PC` at the end of the tick, the fault. A refused step
has none, and no step is refused. -/
def State.tickResult (s : State) : Option ResultRecord :=
  match step s with
  | .next t => some { instr := s.sampled.fetchWord, pc := t.pc, fault := .none }
  | .fault f => some { instr := s.sampled.fetchWord, pc := f.final.pc, fault := f.code }
  | .refused _ => none

end Sys2Proof.Machine
end

