-- ==== Sys2Proof/Safety.lean ====
section
/-! DEFINITION. What claims about the machine are said in: the invariant of rule R31, a run that meets no fault, the frame of an
instruction, the skips, the sprite of a draw, and the key that resolves a wait. -/

namespace Sys2Proof.Machine

/-- The big-endian word at an address (rule R40). -/
def State.wordAt (s : State) (a : Nat) : Word := wordOfBytes (s.byteAt a) (s.byteAt (a + 1))

/-- The next tick fetches (rule R82) and decodes the instruction `i`. -/
def State.AtInstr (s : State) (i : Instr) : Prop :=
  s.pc.toNat ≤ 0x0FFE ∧ decodeWord (s.wordAt s.pc.toNat) = .ok i

/-- The state a handler starts from: the inputs of the tick loaded and `PC` advanced by 2 (rules R81, R83), every other element
as before the tick. The host's redraw is assumption 7. -/
def State.entered (s : State) : State :=
  { s with
    displayDirty := s.displayDirty && !s.nextInput.redrawn
    key := s.nextInput.keys
    rnd := s.nextInput.rnd
    inputs := s.inputs.tail
    ticks := s.ticks + 1
    pc := s.pc + 2#16 }

/-! ## Invariant and runs -/

/-- The invariant of reachable states: rule R31 items 1 and 3 (item 2 is the type of `sp`), the bounds on `PC` and on return
addresses that rules R14 and R104 derive, and the canonical form of memory. -/
structure Inv (s : State) : Prop where
  memWf    : s.mem.wf = true
  indexLe  : s.index.toNat ≤ 0x0FFF
  pcLe     : s.pc.toNat ≤ 0x10FE
  stackLe  : ∀ j : Fin 16, (s.stack[j.val]).toNat ≤ 0x1000
  awaiting : s.awaitingKey = true → ∃ x, s.AtInstr (.ldVxK x)

/-- `k` ticks from `s` meet no fault (rule R198: a fault ends the run). -/
def FaultFree (k : Nat) (s : State) : Prop := ∃ t, Sys2Proof.core.run k s = .next t

/-- The definition of "the program has ended normally" that rule R210 proposes: the instruction at `PC` is `1nnn` with
`nnn = PC`. -/
def State.AtSelfJump (s : State) : Prop := ∃ nnn : Addr12, s.AtInstr (.jp nnn) ∧ nnn.toNat = s.pc.toNat

/-! ## Frames -/

/-- The kinds of state an instruction may write. -/
structure Writes where
  bank    : Bool := false
  pc      : Bool := false
  index   : Bool := false
  stack   : Bool := false
  timers  : Bool := false
  screen  : Bool := false
  keyWait : Bool := false
  memory  : Bool := false

/-- Everything is kept but what `w` names: the register bank; `PC`; `I`; the stack and `SP`; `DT` and `ST`; `FB` and
`display_dirty`; `awaiting_key` and `prevkey`; every byte of memory. No handler writes `key` (rule R22) or the model's own
fields. -/
def KeptBut (w : Writes) (s t : State) : Prop :=
  (w.bank = false → ∀ r, t.readV r = s.readV r) ∧
  (w.pc = false → t.pc = s.pc) ∧
  (w.index = false → t.index = s.index) ∧
  (w.stack = false → t.stack = s.stack ∧ t.sp = s.sp) ∧
  (w.timers = false → t.dt = s.dt ∧ t.st = s.st) ∧
  (w.screen = false → t.fb = s.fb ∧ t.displayDirty = s.displayDirty) ∧
  (w.keyWait = false → t.awaitingKey = s.awaitingKey ∧ t.prevkey = s.prevkey) ∧
  (w.memory = false → ∀ a, t.byteAt a = s.byteAt a) ∧
  t.key = s.key ∧ t.params = s.params ∧ t.rnd = s.rnd ∧ t.inputs = s.inputs ∧ t.ticks = s.ticks

/-- The instruction completes, and skips the next one exactly when `c` holds (rule R100); it writes nothing else. -/
def SkipsExactlyWhen (c : Prop) (i : Instr) (s : State) : Prop :=
  ∃ t, exec i s = .next t ∧ (c → t.pc = s.pc + 2#16) ∧ (¬c → t.pc = s.pc) ∧ KeptBut { pc := true } s t

/-- The instruction completes with `PC` at the given number, writing nothing else. -/
def JumpsTo (a : Nat) (i : Instr) (s : State) : Prop :=
  ∃ t, exec i s = .next t ∧ t.pc.toNat = a ∧ KeptBut { pc := true } s t

/-- The instruction completes with `V[x]` at the given number, every other register as it was, writing nothing else. -/
def SetsRegister (x : RegIdx) (n : Nat) (i : Instr) (s : State) : Prop :=
  ∃ t, exec i s = .next t ∧ (t.readV x).toNat = n ∧ (∀ r, r ≠ x → t.readV r = s.readV r) ∧
    KeptBut { bank := true } s t

/-- The instruction completes with `V[x]` at `n` and then `VF` at 1 or 0 by `c`, so that with `x = 0xF` the flag stays
(rules R12, R121); every other register is as it was and nothing else is written. -/
def SetsRegisterAndFlag (x : RegIdx) (n : Nat) (c : Prop) (i : Instr) (s : State) : Prop :=
  ∃ t, exec i s = .next t ∧ (x ≠ vf → (t.readV x).toNat = n) ∧
    (c → t.readV vf = 0x01#8) ∧ (¬c → t.readV vf = 0x00#8) ∧
    (∀ r, r ≠ x → r ≠ vf → t.readV r = s.readV r) ∧ KeptBut { bank := true } s t

/-- The instruction completes with `I` at the given number, writing nothing else (`VF` included). -/
def SetsIndex (a : Nat) (i : Instr) (s : State) : Prop :=
  ∃ t, exec i s = .next t ∧ t.index.toNat = a ∧ KeptBut { index := true } s t

/-- The general registers an instruction may write (the write rows of the table of rule R11): its destination, `VF` where it
defines a flag, and the block of `Fx65`. -/
def MayWriteV (i : Instr) (r : RegIdx) : Prop :=
  match i with
  | .ldKk x _ => r = x
  | .addKk x _ => r = x
  | .ldVy x _ => r = x
  | .orVy x _ => r = x
  | .andVy x _ => r = x
  | .xorVy x _ => r = x
  | .addVy x _ => r = x ∨ r = vf
  | .subVy x _ => r = x ∨ r = vf
  | .shr x _ => r = x ∨ r = vf
  | .subnVy x _ => r = x ∨ r = vf
  | .shl x _ => r = x ∨ r = vf
  | .rnd x _ => r = x
  | .drw _ _ _ => r = vf
  | .ldVxDt x => r = x
  | .ldVxK x => r = x
  | .loadRegs x => r ≤ x
  | _ => False

/-- The instructions whose handler may write `PC` (the listed rows of the table of rule R14). -/
def MayWritePc (i : Instr) : Prop :=
  match i with
  | .jp _ => True
  | .call _ => True
  | .ret => True
  | .jpV0 _ => True
  | .seKk _ _ => True
  | .sneKk _ _ => True
  | .seVy _ _ => True
  | .sneVy _ _ => True
  | .skp _ => True
  | .sknp _ => True
  | .ldVxK _ => True
  | _ => False

/-! ## Display -/

/-- Some set bit of the `n`-byte sprite at `I`, drawn at `(V[x] mod 64, V[y] mod 32)` and wrapped in each axis, lands on the
pixel in row `r` and column `c` (rules R160, R162). -/
def SpriteCovers (s : State) (x y : RegIdx) (n : Nibble) (r : Fin 32) (c : Fin 64) : Prop :=
  ∃ i j : Nat, i < n.toNat ∧ j < 8 ∧ ((s.readV y).toNat % 32 + i) % 32 = r.val ∧
    ((s.readV x).toNat % 64 + j) % 64 = c.val ∧ (s.byteAt (s.index.toNat + i)).getLsbD (7 - j) = true

/-! ## Keys -/

/-- `qualifies(k)` of rule R176, for the two values of `KEYWAIT_EDGE`. -/
def KeyQualifies (edge : Config.KeywaitEdge) (prev now : Keys) (k : RegIdx) : Prop :=
  match edge with
  | .release => prev.getLsbD k.val = true ∧ now.getLsbD k.val = false
  | .press => prev.getLsbD k.val = false ∧ now.getLsbD k.val = true

/-- `ksel` of rule R171, for the two values of `KEY_SELECT`, as a number. -/
def keyTested (sel : Config.KeySelect) (s : State) (x : RegIdx) : Nat :=
  match sel with
  | .field => x.val
  | .register => (s.readV x).toNat % 16

/-! ## Program counter -/

/-- The table of rule R14 for a tick that ran `i` from `s` and succeeded in `t`; `a` is `s.pc`. The key skips read this tick's
snapshot (rule R81), and the wait is pending exactly while `awaiting_key` stays set (rule R177). -/
def PcAsInTable (i : Instr) (s t : State) : Prop :=
  match i with
  | .jp nnn => t.pc.toNat = nnn.toNat
  | .call nnn => t.pc.toNat = nnn.toNat
  | .ret => ∀ h : 0 < s.sp.val, t.pc = s.stack[s.sp.val - 1]'(by omega)
  | .jpV0 nnn => t.pc.toNat = nnn.toNat + (s.readV 0).toNat
  | .seKk x kk => t.pc = if s.readV x = kk then s.pc + 4#16 else s.pc + 2#16
  | .sneKk x kk => t.pc = if s.readV x = kk then s.pc + 2#16 else s.pc + 4#16
  | .seVy x y => t.pc = if s.readV x = s.readV y then s.pc + 4#16 else s.pc + 2#16
  | .sneVy x y => t.pc = if s.readV x = s.readV y then s.pc + 2#16 else s.pc + 4#16
  | .skp x =>
    t.pc = if s.nextInput.keys.getLsbD (keyTested s.params.keySelect s x) then s.pc + 4#16 else s.pc + 2#16
  | .sknp x =>
    t.pc = if s.nextInput.keys.getLsbD (keyTested s.params.keySelect s x) then s.pc + 2#16 else s.pc + 4#16
  | .ldVxK _ => t.pc = if t.awaitingKey then s.pc else s.pc + 2#16
  | _ => t.pc = s.pc + 2#16

end Sys2Proof.Machine
end

