-- ==== Sys2Proof/Certificates/Slice0/Obligations.lean ====
section
/-! DEFINITION. The statements for the provers, in the order of OBLIGATIONS.json. Each docstring names the rules of spec/ it
formalises; the predicates they use stand in Sys2Proof/Safety.lean. -/

open Sys2Proof Sys2Proof.Machine

/-! ## Encoding -/

/-- Words the spec itself writes out (spec/95_test_vectors.md sections 2, 3 and 6) decode to the instructions they stand for. -/
def Obligations.SpecWordsDecode : Prop :=
  decodeBytes [0x6A, 0x05] = .ok (.ldKk 0xA 0x05, []) ∧
  decodeBytes [0x3A, 0x05] = .ok (.seKk 0xA 0x05, []) ∧
  decodeBytes [0x13, 0x00] = .ok (.jp 0x300, []) ∧
  decodeBytes [0x00, 0xEE] = .ok (.ret, []) ∧
  decodeBytes [0xD1, 0x2F] = .ok (.drw 1 2 0xF, []) ∧
  decodeBytes [0x81, 0x2E] = .ok (.shl 1 2, []) ∧
  decodeBytes [0xF3, 0x0A] = .ok (.ldVxK 3, []) ∧
  decodeBytes [0xF2, 0x55] = .ok (.storeRegs 2, []) ∧
  decodeBytes [0xE5, 0x9E] = .ok (.skp 5, []) ∧
  decodeBytes [0x81, 0x28] = .error (.illegal 0x8128)

/-- Decoding the bytes of a well-formed instruction, whatever follows them, gives the instruction back with every operand
(rules R60, R61, R64). -/
def Obligations.DecodeOfEncodeIsTheInstruction : Prop :=
  ∀ (i : Instr) (rest : List Byte), i.wellFormed = true → decodeBytes (encodeBytes i ++ rest) = .ok (i, rest)

/-- A word that decodes has one meaning: the instruction is well formed and its encoding is that word (rules R61, R64, R66). -/
def Obligations.EncodeOfDecodeIsTheWord : Prop :=
  ∀ (w : Word) (i : Instr), decodeWord w = .ok i → encode i = w ∧ i.wellFormed = true

/-- Rule R65: the decoder takes the first row of the table of rule R64 that matches; where none does the word is illegal, under its
own name; two rows match one word only inside family 0, where rows 1 to 3 precede row 4; and row 1's effect is row 4's. -/
def Obligations.DecoderTakesFirstMatchingRow : Prop :=
  (∀ w : Word, (opcodeTable.find? (·.selects w)).map (·.row) = (decodeWord w).toOption.map Instr.row) ∧
  (∀ w : Word, opcodeTable.find? (·.selects w) = none ↔ decodeWord w = .error (.illegal w)) ∧
  (∀ (w : Word) (p q : OpcodeRow), p ∈ opcodeTable → q ∈ opcodeTable → p.selects w = true → q.selects w = true →
    p.row < q.row → (p.row = 1 ∨ p.row = 2 ∨ p.row = 3) ∧ q.row = 4) ∧
  (∀ (nnn : Addr12) (s : State), exec .nop s = exec (.sys nnn) s)

/-- Rule R67: the illegal words are exactly those of its table (the counts of its last column are not stated). -/
def Obligations.IllegalWordsAreExactlyThoseListed : Prop :=
  ∀ w : Word, decodeWord w = .error (.illegal w) ↔
    ((fieldsOf w).family = 0x5#4 ∧ (fieldsOf w).n ≠ 0x0#4) ∨
    ((fieldsOf w).family = 0x9#4 ∧ (fieldsOf w).n ≠ 0x0#4) ∨
    ((fieldsOf w).family = 0x8#4 ∧ (fieldsOf w).n ∈ [0x8#4, 0x9#4, 0xA#4, 0xB#4, 0xC#4, 0xD#4, 0xF#4]) ∨
    ((fieldsOf w).family = 0xE#4 ∧ (fieldsOf w).kk ∉ [0x9E#8, 0xA1#8]) ∨
    ((fieldsOf w).family = 0xF#4 ∧
      (fieldsOf w).kk ∉ [0x07#8, 0x0A#8, 0x15#8, 0x18#8, 0x1E#8, 0x29#8, 0x33#8, 0x55#8, 0x65#8])

/-! ## The tick -/

/-- When the two bytes at `PC` decode to `i`, the tick is exec of `i` on the advanced `PC` with the tick's inputs loaded, then the
decay of both timers on success (rules R80, R81, R83, R85, R86). The inputs are the head of the list; the list and the free
values of an empty list are the model's (log entry 1). -/
def Obligations.StepRunsTheDecodedInstruction : Prop :=
  ∀ (s : State) (i : Instr), s.pc.toNat ≤ 0x0FFE →
    decodeBytes (s.mem.readBytes s.pc.toNat 2) = .ok (i, []) →
    (step s = match exec i s.entered with
      | .next t => .next { t with dt := BitVec.ofNat 8 (t.dt.toNat - 1), st := BitVec.ofNat 8 (t.st.toNat - 1) }
      | .fault f => .fault f
      | .refused r => .refused r) ∧
    (∀ inp rest, s.inputs = inp :: rest → s.entered.key = inp.keys ∧ s.entered.rnd = inp.rnd ∧ s.entered.inputs = rest) ∧
    (s.inputs = [] → s.entered.key = Config.freeKeys s.ticks ∧ s.entered.rnd = Config.freeRnd s.ticks)

/-- Rules R82 and R191: a fetch with `PC > 0x0FFE` faults `OutOfBounds`, leaves everything but the loaded inputs as it was and
reports the offending `PC`; with `PC ≤ 0x0FFE` no tick faults at fetch. That the record's word is absent is the model's choice
(log entry 6, decision D15): rules R87 and R191 leave it unspecified. -/
def Obligations.FetchFaultsExactlyAbove0FFE : Prop :=
  ∀ s : State,
    (0x0FFE < s.pc.toNat →
      step s = .fault (.outOfBoundsFetch { s.entered with pc := s.pc }) ∧
      s.tickResult = some { instr := none, pc := s.pc, fault := .outOfBounds }) ∧
    (s.pc.toNat ≤ 0x0FFE → ∀ t, step s ≠ .fault (.outOfBoundsFetch t))

/-- Rule R192: a fetched word that is illegal faults, with `PC` advanced and nothing else changed but the loaded inputs, and the
record names the word. -/
def Obligations.IllegalWordFaults : Prop :=
  ∀ (s : State) (e : DecodeError), s.pc.toNat ≤ 0x0FFE → decodeWord (s.wordAt s.pc.toNat) = .error e →
    step s = .fault (.illegalInstruction s.entered) ∧
    s.tickResult = some { instr := some (s.wordAt s.pc.toNat), pc := s.pc + 2#16, fault := .illegalInstruction }

/-- Rule R198: a tick that faults leaves exactly the state before it, except that `key` holds the tick's keys and, for a fault
raised after the fetch, `PC` is advanced by 2. (`display_dirty` also shows the host's redraw before the tick, log entry 7.) -/
def Obligations.FaultsArePrecise : Prop :=
  ∀ (s : State) (f : Fault), step s = .fault f →
    f.final.v = s.v ∧ f.final.index = s.index ∧ f.final.stack = s.stack ∧ f.final.sp = s.sp ∧
    f.final.dt = s.dt ∧ f.final.st = s.st ∧ f.final.fb = s.fb ∧ f.final.mem = s.mem ∧
    f.final.prevkey = s.prevkey ∧ f.final.awaitingKey = s.awaitingKey ∧ f.final.params = s.params ∧
    f.final.key = s.nextInput.keys ∧ f.final.displayDirty = (s.displayDirty && !s.nextInput.redrawn) ∧
    ((0x0FFE < s.pc.toNat ∧ f.final.pc = s.pc) ∨ (s.pc.toNat ≤ 0x0FFE ∧ f.final.pc = s.pc + 2#16))

/-- The causes of rule R190's table, and no other: what a faulting tick says about the state before it (rules R191 to R195). -/
def Obligations.FaultsHaveOnlyTheListedCauses : Prop :=
  ∀ (s : State) (f : Fault), step s = .fault f →
    match f with
    | .outOfBoundsFetch _ => 0x0FFE < s.pc.toNat
    | .illegalInstruction _ => s.pc.toNat ≤ 0x0FFE ∧ ∃ e, decodeWord (s.wordAt s.pc.toNat) = .error e
    | .stackUnderflow _ => s.AtInstr .ret ∧ s.sp.val = 0
    | .stackOverflow _ => (∃ nnn, s.AtInstr (.call nnn)) ∧ s.sp.val = 16
    | .outOfBoundsData _ =>
      (∃ x y n, s.AtInstr (.drw x y n) ∧ 1 ≤ n.toNat ∧ 0x0FFF < s.index.toNat + n.toNat - 1) ∨
      (∃ x, s.AtInstr (.ldB x) ∧ 0x0FFF < s.index.toNat + 2) ∨
      (∃ x, (s.AtInstr (.storeRegs x) ∨ s.AtInstr (.loadRegs x)) ∧ 0x0FFF < s.index.toNat + x.val)

/-- Rule R202: a successful tick leaves each timer one below the value its handler left, stuck at 0, and all else as the handler
left it; a tick that faults decays neither. -/
def Obligations.OnlySuccessfulTicksDecayTimers : Prop :=
  (∀ s t : State, step s = .next t → ∃ i u, s.AtInstr i ∧ exec i s.entered = .next u ∧
    t.dt.toNat = u.dt.toNat - 1 ∧ t.st.toNat = u.st.toNat - 1 ∧ t = { u with dt := t.dt, st := t.st }) ∧
  (∀ (s : State) (f : Fault), step s = .fault f → f.final.dt = s.dt ∧ f.final.st = s.st)

/-- Every word is an instruction or illegal (rules R64, R68), so no step and no instruction is refused. -/
def Obligations.NothingIsRefused : Prop :=
  (∀ (s : State) (r : Refusal), step s ≠ .refused r) ∧
  (∀ (i : Instr) (s : State) (r : Refusal), exec i s ≠ .refused r)

/-- Rule R87: the result record of every tick, and the numbers of its fault field. That `instr` is absent after a fetch fault is
the model's choice (log entry 6, decision D15): rule R87 leaves it unspecified there. -/
def Obligations.ResultRecordReportsTheTick : Prop :=
  (∀ s t : State, step s = .next t →
    s.tickResult = some { instr := some (s.wordAt s.pc.toNat), pc := t.pc, fault := .none }) ∧
  (∀ (s : State) (f : Fault), step s = .fault f →
    s.tickResult = some
      { instr := if s.pc.toNat ≤ 0x0FFE then some (s.wordAt s.pc.toNat) else none, pc := f.final.pc, fault := f.code }) ∧
  (FaultCode.none.number = 0 ∧ FaultCode.outOfBounds.number = 1 ∧ FaultCode.illegalInstruction.number = 2 ∧
    FaultCode.stackUnderflow.number = 3 ∧ FaultCode.stackOverflow.number = 4) ∧
  (∀ u : State, (Fault.outOfBoundsFetch u).code = .outOfBounds ∧ (Fault.outOfBoundsData u).code = .outOfBounds ∧
    (Fault.illegalInstruction u).code = .illegalInstruction ∧ (Fault.stackUnderflow u).code = .stackUnderflow ∧
    (Fault.stackOverflow u).code = .stackOverflow)

/-- The table of rule R14: how each instruction leaves `PC` after a successful tick. -/
def Obligations.PcAfterEveryInstruction : Prop :=
  ∀ (s t : State) (i : Instr), s.AtInstr i → step s = .next t → PcAsInTable i s t

/-! ## Reset, load and the whole machine -/

/-- Rule R220: every element after reset, with the default font; the model's own fields are not stated. -/
def Obligations.ResetLeavesTheStatedValues : Prop :=
  (∀ r, State.reset.readV r = 0x00#8) ∧ State.reset.index = 0x0000#16 ∧ State.reset.pc = 0x0200#16 ∧
  (∀ j : Fin 16, State.reset.stack[j.val] = 0x0000#16) ∧ State.reset.sp = 0 ∧
  State.reset.dt = 0x00#8 ∧ State.reset.st = 0x00#8 ∧ (∀ r c, State.reset.pixel r c = false) ∧
  (∀ k : Fin 16, State.reset.key.getLsbD k.val = false ∧ State.reset.prevkey.getLsbD k.val = false) ∧
  State.reset.awaitingKey = false ∧ State.reset.displayDirty = false ∧
  (∀ j : Nat, j < 80 → some (State.reset.byteAt (0x050 + j)) = defaultFont.bytes[j]?) ∧
  (∀ a : Nat, a < 0x050 ∨ 0x09F < a → State.reset.byteAt a = 0x00#8)

/-- Reset of a machine with any parameters (rules R5, R27, R220): the 80 bytes of its `FONT` lie at 0x050 to 0x09F, everything
else is as after reset, and memory is in canonical form. -/
def Obligations.ResetPlacesAnyFont : Prop :=
  (∀ params : Config.Params,
    (∀ j : Nat, j < 80 → some ((State.resetWith params).byteAt (0x050 + j)) = params.font.bytes[j]?) ∧
    (∀ a : Nat, a < 0x050 ∨ 0x09F < a → (State.resetWith params).byteAt a = 0x00#8) ∧
    (State.resetWith params).mem.wf = true ∧
    State.resetWith params = { State.reset with params := params, mem := (State.resetWith params).mem }) ∧
  State.resetWith defaultParams = State.reset

/-- Rules R225 and R226: an image of even length at most the machine's `ROM_MAX_LEN`, which is any even value from 0 to 3584
(rule R5), fits in memory, is written from 0x200 on, and nothing else changes. That any other image is not loaded is the
model's choice (log entry 20): rule R226 has the loader enforce the constraint, not the core. -/
def Obligations.LoadWritesTheProgramOnly : Prop :=
  (∀ n : Nat, (∃ m : Config.RomMaxLen, m.bytes = n) ↔ n ≤ 3584 ∧ n % 2 = 0) ∧
  ∀ (s : State) (p : List Byte),
    (p.length ≤ s.params.romMaxLen.bytes ∧ p.length % 2 = 0 →
      0x200 + p.length ≤ 0x1000 ∧
      ∃ t, s.load p = some t ∧
        (∀ j : Nat, j < p.length → some (t.byteAt (0x200 + j)) = p[j]?) ∧
        (∀ a : Nat, a < 0x200 ∨ 0x200 + p.length ≤ a → t.byteAt a = s.byteAt a) ∧
        KeptBut { memory := true } s t) ∧
    (¬(p.length ≤ s.params.romMaxLen.bytes ∧ p.length % 2 = 0) → s.load p = none)

/-- The invariant of rule R31 holds after reset. -/
def Obligations.ResetMeetsTheInvariant : Prop := Inv State.reset

/-- From every state that meets it, every successful tick keeps the invariant of rule R31. -/
def Obligations.StepKeepsTheInvariant : Prop :=
  ∀ s t : State, Inv s → step s = .next t → Inv t

/-- Rule R31 over runs: after reset with any parameters (any font among them), the load of any program the machine admits and any list of inputs, every state
that `k` ticks reach meets the invariant. -/
def Obligations.ReachableStatesMeetTheInvariant : Prop :=
  ∀ (params : Config.Params) (p : List Byte) (inputs : List TickInput) (s t : State) (k : Nat),
    (State.resetWith params).load p = some s →
    Sys2Proof.core.run k { s with inputs := inputs } = .next t → Inv t

/-- Which instructions write which kind of state (rules R11, R12, R14, R16 to R25, R43): each general register, `VF` among them,
`PC`, `I`, the stack and `SP`, the timers, the screen, the key-wait state, memory; and none writes `key` or the parameters. -/
def Obligations.StateIsWrittenOnlyByItsWriters : Prop :=
  ∀ (i : Instr) (s t : State), exec i s = .next t →
    (∀ r, ¬MayWriteV i r → t.readV r = s.readV r) ∧
    (¬MayWritePc i → t.pc = s.pc) ∧
    (match i with | .ldI _ => True | .addI _ => True | .ldF _ => True | _ => t.index = s.index) ∧
    (match i with | .call _ => True | _ => t.stack = s.stack) ∧
    (match i with | .call _ => True | .ret => True | _ => t.sp = s.sp) ∧
    (match i with | .ldDt _ => True | _ => t.dt = s.dt) ∧
    (match i with | .ldSt _ => True | _ => t.st = s.st) ∧
    (match i with | .cls => True | .drw _ _ _ => True | _ => t.fb = s.fb ∧ t.displayDirty = s.displayDirty) ∧
    (match i with | .ldVxK _ => True | _ => t.awaitingKey = s.awaitingKey ∧ t.prevkey = s.prevkey) ∧
    (match i with | .ldB _ => True | .storeRegs _ => True | _ => ∀ a, t.byteAt a = s.byteAt a) ∧
    t.key = s.key ∧ t.params = s.params

/-- Rules R23, R24 and R177 (g): no instruction other than `Fx0A` reads or writes `awaiting_key` or `prevkey`: started with other
values of the two, it ends the same way with those values kept. -/
def Obligations.OnlyKeyWaitTouchesItsState : Prop :=
  ∀ (i : Instr) (s : State) (b : Bool) (ks : Keys), (∀ x, i ≠ .ldVxK x) →
    exec i { s with awaitingKey := b, prevkey := ks } =
      match exec i s with
      | .next t => .next { t with awaitingKey := b, prevkey := ks }
      | .fault (.outOfBoundsFetch t) => .fault (.outOfBoundsFetch { t with awaitingKey := b, prevkey := ks })
      | .fault (.outOfBoundsData t) => .fault (.outOfBoundsData { t with awaitingKey := b, prevkey := ks })
      | .fault (.illegalInstruction t) => .fault (.illegalInstruction { t with awaitingKey := b, prevkey := ks })
      | .fault (.stackUnderflow t) => .fault (.stackUnderflow { t with awaitingKey := b, prevkey := ks })
      | .fault (.stackOverflow t) => .fault (.stackOverflow { t with awaitingKey := b, prevkey := ks })
      | .refused r => .refused r

/-- Rules R20 and R25: no instruction reads `ST` or `display_dirty`: an instruction that completes from one of two states that
differ in nothing else completes from the other, in states that differ in nothing else. -/
def Obligations.NothingReadsSoundTimerOrDirty : Prop :=
  ∀ (i : Instr) (s t : State) (b : Byte) (d : Bool), exec i s = .next t →
    ∃ u, exec i { s with st := b, displayDirty := d } = .next u ∧
      u = { t with st := u.st, displayDirty := u.displayDirty }

/-- Rule R210: a machine at a jump to itself stays there, meets no fault however long it runs, and in each tick only its timers
move. `key` is loaded with the tick's input, and `display_dirty` shows the host's redraw before it (log entries 1 and 7). -/
def Obligations.SelfJumpRunsForever : Prop :=
  ∀ s : State, s.AtSelfJump →
    (∀ k, FaultFree k s) ∧
    ∃ t, step s = .next t ∧ t.AtSelfJump ∧ t.pc = s.pc ∧ t.v = s.v ∧ t.mem = s.mem ∧ t.stack = s.stack ∧ t.sp = s.sp ∧
      t.index = s.index ∧ t.fb = s.fb ∧ t.dt.toNat = s.dt.toNat - 1 ∧ t.st.toNat = s.st.toNat - 1 ∧
      t.awaitingKey = s.awaitingKey ∧ t.prevkey = s.prevkey ∧ t.params = s.params ∧ t.key = s.nextInput.keys ∧
      t.displayDirty = (s.displayDirty && !s.nextInput.redrawn)

/-- Rules R203 (b) and R204: over any number of ticks that all succeed and none of which runs `Fx15`, the delay timer loses exactly
one for each tick, and sticks at 0. -/
def Obligations.DelayTimerCountsTicks : Prop :=
  ∀ (k : Nat) (s t : State), Sys2Proof.core.run k s = .next t →
    (∀ (j : Nat) (u : State), j < k → Sys2Proof.core.run j s = .next u → ∀ x, ¬u.AtInstr (.ldDt x)) →
    t.dt.toNat = s.dt.toNat - k

/-- Rules R82 and R84: in zero memory the machine executes one zero word per tick up to the end of memory, changing no register, and
then faults at the fetch. -/
def Obligations.ZeroMemoryRunsToAFetchFault : Prop :=
  ∀ (k : Nat) (s : State), s.pc.toNat + 2 * k = 0x1000 ∨ s.pc.toNat + 2 * k = 0x0FFF →
    (∀ a : Nat, s.pc.toNat ≤ a → a ≤ 0x0FFF → s.byteAt a = 0x00#8) →
    ∃ t, Sys2Proof.core.run k s = .next t ∧ t.pc.toNat = s.pc.toNat + 2 * k ∧ t.v = s.v ∧ t.index = s.index ∧
      t.stack = s.stack ∧ t.sp = s.sp ∧ t.fb = s.fb ∧ t.mem = s.mem ∧
      ∃ u, Sys2Proof.core.run (k + 1) s = .fault (.outOfBoundsFetch u)

/-! ## Control flow -/

/-- Rules R84 and R101: the zero word and every other family-0 word but 00E0 and 00EE complete and do nothing; the tick moves `PC`
past the word and decays the timers. -/
def Obligations.NoOpsOnlyAdvanceAndDecay : Prop :=
  (∀ s : State, exec .nop s = .next s) ∧ (∀ (nnn : Addr12) (s : State), exec (.sys nnn) s = .next s) ∧
  (∀ s : State, s.pc.toNat ≤ 0x0FFE → (fieldsOf (s.wordAt s.pc.toNat)).family = 0x0#4 →
    (fieldsOf (s.wordAt s.pc.toNat)).nnn ≠ 0x0E0#12 → (fieldsOf (s.wordAt s.pc.toNat)).nnn ≠ 0x0EE#12 →
    step s = .next { s.entered with dt := BitVec.ofNat 8 (s.dt.toNat - 1), st := BitVec.ofNat 8 (s.st.toNat - 1) })

/-- Rules R102 and R194: a return pops the top entry into `PC`, unmasked, and leaves the entries as they are; on an empty stack
it faults with nothing written. -/
def Obligations.ReturnPopsTheStack : Prop :=
  ∀ s : State,
    (∀ h : 0 < s.sp.val, ∃ t, exec .ret s = .next t ∧ t.sp.val = s.sp.val - 1 ∧
      t.pc = s.stack[s.sp.val - 1]'(by omega) ∧ t.stack = s.stack ∧ KeptBut { pc := true, stack := true } s t) ∧
    (s.sp.val = 0 → exec .ret s = .fault (.stackUnderflow s))

/-- Rules R104 and R195: a call writes the advanced `PC` at `stack[SP]`, counts it and jumps; with sixteen entries it faults with
nothing written. -/
def Obligations.CallPushesAndJumps : Prop :=
  ∀ (nnn : Addr12) (s : State),
    (s.sp.val < 16 → ∃ t, exec (.call nnn) s = .next t ∧ t.sp.val = s.sp.val + 1 ∧ t.pc.toNat = nnn.toNat ∧
      (∀ j : Fin 16, t.stack[j.val] = if j.val = s.sp.val then s.pc else s.stack[j.val]) ∧
      KeptBut { pc := true, stack := true } s t) ∧
    (s.sp.val = 16 → exec (.call nnn) s = .fault (.stackOverflow s))

/-- "A call (`2nnn`) followed by a return (`00EE`) restores the exact program counter value" (rule R102, spec/95_test_vectors.md
S6), whatever the callee did to anything but the stack. -/
def Obligations.CallThenReturnRestoresPc : Prop :=
  ∀ (nnn : Addr12) (s t u : State), exec (.call nnn) s = .next t → u.stack = t.stack → u.sp = t.sp →
    ∃ r, exec .ret u = .next r ∧ r.pc = s.pc ∧ r.sp = s.sp

/-- Rule R103: the jump sets `PC` to `nnn`, whatever `nnn` is, and writes nothing else. -/
def Obligations.JumpSetsPc : Prop :=
  ∀ (nnn : Addr12) (s : State), JumpsTo nnn.toNat (.jp nnn) s

/-- Rule R109: the indexed jump adds `V[0]`, and the sum is not reduced (decision D7). -/
def Obligations.IndexedJumpAddsV0 : Prop :=
  ∀ (nnn : Addr12) (s : State), JumpsTo (nnn.toNat + (s.readV 0).toNat) (.jpV0 nnn) s

/-- Rules R100 and R105 to R108: the four compare-and-skip instructions, whatever the bytes skipped are; and the words of families
5 and 9 with `n` not 0 are none of them but illegal. -/
def Obligations.ComparesSkipExactlyWhenStated : Prop :=
  (∀ (x y : RegIdx) (kk : Byte) (s : State),
    SkipsExactlyWhen (s.readV x = kk) (.seKk x kk) s ∧ SkipsExactlyWhen (s.readV x ≠ kk) (.sneKk x kk) s ∧
    SkipsExactlyWhen (s.readV x = s.readV y) (.seVy x y) s ∧
    SkipsExactlyWhen (s.readV x ≠ s.readV y) (.sneVy x y) s) ∧
  (∀ w : Word, (fieldsOf w).family = 0x5#4 ∨ (fieldsOf w).family = 0x9#4 → (fieldsOf w).n ≠ 0x0#4 →
    decodeWord w = .error (.illegal w))

/-! ## Registers and arithmetic -/

/-- Rules R122, R123 and R124: the immediate load, the immediate add modulo 256, the copy; no flag (rule R12). -/
def Obligations.LoadsAndImmediateAdd : Prop :=
  ∀ (x y : RegIdx) (kk : Byte) (s : State),
    SetsRegister x kk.toNat (.ldKk x kk) s ∧
    SetsRegister x (((s.readV x).toNat + kk.toNat) % 256) (.addKk x kk) s ∧
    SetsRegister x (s.readV y).toNat (.ldVy x y) s

/-- Rules R125, R126 and R127: OR, AND and XOR, on every bit; `VF` is left alone unless it is the destination. -/
def Obligations.BitwiseActOnEveryBit : Prop :=
  ∀ (x y : RegIdx) (s : State), ∃ a b c : State,
    exec (.orVy x y) s = .next a ∧ exec (.andVy x y) s = .next b ∧ exec (.xorVy x y) s = .next c ∧
    (∀ k, (a.readV x).getLsbD k = ((s.readV x).getLsbD k || (s.readV y).getLsbD k)) ∧
    (∀ k, (b.readV x).getLsbD k = ((s.readV x).getLsbD k && (s.readV y).getLsbD k)) ∧
    (∀ k, (c.readV x).getLsbD k = ((s.readV x).getLsbD k ^^ (s.readV y).getLsbD k)) ∧
    (∀ r, r ≠ x → a.readV r = s.readV r ∧ b.readV r = s.readV r ∧ c.readV r = s.readV r) ∧
    KeptBut { bank := true } s a ∧ KeptBut { bank := true } s b ∧ KeptBut { bank := true } s c

/-- Rules R120, R121 and R128: the sum modulo 256 and the carry in `VF`. -/
def Obligations.AddSetsCarry : Prop :=
  ∀ (x y : RegIdx) (s : State),
    SetsRegisterAndFlag x (((s.readV x).toNat + (s.readV y).toNat) % 256)
      (255 < (s.readV x).toNat + (s.readV y).toNat) (.addVy x y) s

/-- Rules R120, R121, R129 and R131: the two differences modulo 256, and in `VF` whether the minuend was strictly greater. -/
def Obligations.SubtractionsSetStrictFlag : Prop :=
  ∀ (x y : RegIdx) (s : State),
    SetsRegisterAndFlag x (((s.readV x).toNat + 256 - (s.readV y).toNat) % 256)
      ((s.readV y).toNat < (s.readV x).toNat) (.subVy x y) s ∧
    SetsRegisterAndFlag x (((s.readV y).toNat + 256 - (s.readV x).toNat) % 256)
      ((s.readV x).toNat < (s.readV y).toNat) (.subnVy x y) s

/-- Rules R121, R130 and R132: the shifts of `V[x]` by one, whatever `y` is, and the bit shifted out in `VF`. -/
def Obligations.ShiftsSetTheBitShiftedOut : Prop :=
  ∀ (x y : RegIdx) (s : State),
    SetsRegisterAndFlag x ((s.readV x).toNat / 2) ((s.readV x).toNat % 2 = 1) (.shr x y) s ∧
    SetsRegisterAndFlag x ((s.readV x).toNat * 2 % 256) (128 ≤ (s.readV x).toNat) (.shl x y) s

/-- Rule R133: `V[x]` is the tick's random byte masked by `kk`, for every value of that byte. -/
def Obligations.RandomIsMaskedInput : Prop :=
  ∀ (x : RegIdx) (kk : Byte) (s : State), ∃ t, exec (.rnd x kk) s = .next t ∧
    (∀ k, (t.readV x).getLsbD k = (s.rnd.getLsbD k && kk.getLsbD k)) ∧
    (∀ r, r ≠ x → t.readV r = s.readV r) ∧ KeptBut { bank := true } s t

/-! ## Index, timers and memory -/

/-- Rules R140 and R145: `Annn` loads `I`; `Fx29` points it at the glyph of the low nibble, reading no memory. Neither writes
anything else. -/
def Obligations.IndexLoadAndGlyphAddress : Prop :=
  ∀ (x : RegIdx) (nnn : Addr12) (s : State),
    SetsIndex nnn.toNat (.ldI nnn) s ∧ SetsIndex (0x050 + 5 * ((s.readV x).toNat % 16)) (.ldF x) s

/-- Rule R144: `Fx1E` adds `V[x]` to `I`, wraps at 12 bits (decision D8) and writes no flag. -/
def Obligations.IndexAddWrapsAt12Bits : Prop :=
  ∀ (x : RegIdx) (s : State), SetsIndex ((s.index.toNat + (s.readV x).toNat) % 0x1000) (.addI x) s

/-- Rules R141, R142 and R143: `Fx07` copies `DT` as the previous tick left it; `Fx15` and `Fx18` copy `V[x]` into one timer and
leave the other. The last three clauses are about the whole tick: its decay comes after the copy, so `Fx07` reads the timer
before it, and the timer just set ends one below `V[x]`, or at 0. -/
def Obligations.TimerAccessCopies : Prop :=
  ∀ (x : RegIdx) (s : State),
    SetsRegister x s.dt.toNat (.ldVxDt x) s ∧
    (∃ t, exec (.ldDt x) s = .next t ∧ t.dt = s.readV x ∧ t.st = s.st ∧ KeptBut { timers := true } s t) ∧
    (∃ t, exec (.ldSt x) s = .next t ∧ t.st = s.readV x ∧ t.dt = s.dt ∧ KeptBut { timers := true } s t) ∧
    (s.AtInstr (.ldVxDt x) → ∃ t, step s = .next t ∧
      t.readV x = s.dt ∧ t.dt.toNat = s.dt.toNat - 1 ∧ t.st.toNat = s.st.toNat - 1) ∧
    (s.AtInstr (.ldDt x) → ∃ t, step s = .next t ∧
      t.dt.toNat = (s.readV x).toNat - 1 ∧ t.st.toNat = s.st.toNat - 1) ∧
    (s.AtInstr (.ldSt x) → ∃ t, step s = .next t ∧
      t.st.toNat = (s.readV x).toNat - 1 ∧ t.dt.toNat = s.dt.toNat - 1)

/-- Rules R48, R146 and R193: the three decimal digits at `I`, `I + 1`, `I + 2` and every other byte as it was; past 0x0FFF a
fault with nothing written. -/
def Obligations.BcdWritesThreeDigits : Prop :=
  ∀ (x : RegIdx) (s : State),
    (s.index.toNat + 2 ≤ 0x0FFF → ∃ t, exec (.ldB x) s = .next t ∧
      (t.byteAt s.index.toNat).toNat = (s.readV x).toNat / 100 ∧
      (t.byteAt (s.index.toNat + 1)).toNat = (s.readV x).toNat / 10 % 10 ∧
      (t.byteAt (s.index.toNat + 2)).toNat = (s.readV x).toNat % 10 ∧
      (∀ a, a < s.index.toNat ∨ s.index.toNat + 2 < a → t.byteAt a = s.byteAt a) ∧
      KeptBut { memory := true } s t) ∧
    (0x0FFF < s.index.toNat + 2 → exec (.ldB x) s = .fault (.outOfBoundsData s))

/-- Rules R48, R147 and R193: `V[0]` to `V[x]` at `I` and up, and every other byte as it was; past 0x0FFF a fault with nothing
written. -/
def Obligations.BlockStoreWritesTheBank : Prop :=
  ∀ (x : RegIdx) (s : State),
    (s.index.toNat + x.val ≤ 0x0FFF → ∃ t, exec (.storeRegs x) s = .next t ∧
      (∀ r : RegIdx, r ≤ x → t.byteAt (s.index.toNat + r.val) = s.readV r) ∧
      (∀ a, a < s.index.toNat ∨ s.index.toNat + x.val < a → t.byteAt a = s.byteAt a) ∧
      KeptBut { memory := true } s t) ∧
    (0x0FFF < s.index.toNat + x.val → exec (.storeRegs x) s = .fault (.outOfBoundsData s))

/-- Rules R48, R148 and R193: `V[0]` to `V[x]` from `I` and up, the registers above `x` as they were; past 0x0FFF a fault with
nothing written. -/
def Obligations.BlockLoadReadsTheBank : Prop :=
  ∀ (x : RegIdx) (s : State),
    (s.index.toNat + x.val ≤ 0x0FFF → ∃ t, exec (.loadRegs x) s = .next t ∧
      (∀ r : RegIdx, r ≤ x → t.readV r = s.byteAt (s.index.toNat + r.val)) ∧
      (∀ r : RegIdx, x < r → t.readV r = s.readV r) ∧ KeptBut { bank := true } s t) ∧
    (0x0FFF < s.index.toNat + x.val → exec (.loadRegs x) s = .fault (.outOfBoundsData s))

/-- "`Fx55` followed immediately by `Fx65` with the same `x` and `index_register` round-trips the register bank exactly" (rule
R148), and does so whatever the registers held in between. -/
def Obligations.StoreThenLoadRoundTrips : Prop :=
  ∀ (x : RegIdx) (s t : State) (bank : Vector Byte 16), exec (.storeRegs x) s = .next t →
    ∃ u, exec (.loadRegs x) { t with v := bank } = .next u ∧ (∀ r : RegIdx, r ≤ x → u.readV r = s.readV r) ∧
      (∀ r : RegIdx, x < r → u.readV r = bank[r.val]) ∧ (bank = s.v → u.v = s.v)

/-- Rule R52: a later fetch inside the block a store wrote sees the stored bytes as its word, big-endian. -/
def Obligations.StoredBytesAreFetched : Prop :=
  ∀ (x k l : RegIdx) (s t u : State), exec (.storeRegs x) s = .next t → l.val = k.val + 1 → l ≤ x →
    u.mem = t.mem → u.pc.toNat = s.index.toNat + k.val → u.fetchWord = some (wordOfBytes (s.readV k) (s.readV l))

/-! ## Display -/

/-- Rule R161: every pixel OFF and `display_dirty` set, whatever the screen held; `VF` is not written. -/
def Obligations.ClearBlanksTheScreen : Prop :=
  ∀ s : State, ∃ t, exec .cls s = .next t ∧ (∀ r c, t.pixel r c = false) ∧ t.displayDirty = true ∧
    KeptBut { screen := true } s t

/-- Rules R48, R160, R162, R163 and R193: a draw flips exactly the pixels its set sprite bits cover, wrapped in each axis; `VF` is
1 exactly when one of them was ON; `display_dirty` is set; with `n = 0` nothing is checked or drawn. A sprite past 0x0FFF
faults with nothing written. -/
def Obligations.DrawFlipsTheCoveredPixels : Prop :=
  ∀ (x y : RegIdx) (n : Nibble) (s : State),
    (n.toNat = 0 ∨ s.index.toNat + n.toNat - 1 ≤ 0x0FFF → ∃ t, exec (.drw x y n) s = .next t ∧
      (∀ r c, t.pixel r c ≠ s.pixel r c ↔ SpriteCovers s x y n r c) ∧
      ((∃ r c, SpriteCovers s x y n r c ∧ s.pixel r c = true) → t.readV vf = 0x01#8) ∧
      (¬(∃ r c, SpriteCovers s x y n r c ∧ s.pixel r c = true) → t.readV vf = 0x00#8) ∧
      t.displayDirty = true ∧ (∀ r, r ≠ vf → t.readV r = s.readV r) ∧ KeptBut { bank := true, screen := true } s t) ∧
    (1 ≤ n.toNat → 0x0FFF < s.index.toNat + n.toNat - 1 → exec (.drw x y n) s = .fault (.outOfBoundsData s))

/-- Rule R162: "drawing the same sprite twice at the same location with nothing else in between restores the original buffer".
The second draw reports a collision exactly when some covered pixel was OFF before the first; the rule's remark that any set
bit suffices holds on a blank area only (log entry 21). The registers are set back in between, so that `VF` as an operand
names the same location. -/
def Obligations.DrawingTwiceRestoresTheScreen : Prop :=
  ∀ (x y : RegIdx) (n : Nibble) (s t : State), exec (.drw x y n) s = .next t →
    ∃ u, exec (.drw x y n) { t with v := s.v } = .next u ∧ u.fb = s.fb ∧
      ((∃ r c, SpriteCovers s x y n r c ∧ s.pixel r c = false) → u.readV vf = 0x01#8) ∧
      (¬(∃ r c, SpriteCovers s x y n r c ∧ s.pixel r c = false) → u.readV vf = 0x00#8)

/-! ## Keys -/

/-- Rules R100, R171, R172 and R173: the key skips, under both values of `KEY_SELECT`. -/
def Obligations.KeySkipsTestTheSelectedKey : Prop :=
  ∀ (x : RegIdx) (s : State),
    SkipsExactlyWhen (s.key.getLsbD (keyTested s.params.keySelect s x) = true) (.skp x) s ∧
    SkipsExactlyWhen (s.key.getLsbD (keyTested s.params.keySelect s x) = false) (.sknp x) s

/-- Rules R174 and R175: the entering tick takes the snapshot, sets `awaiting_key`, rewinds `PC` by 2 and compares nothing. -/
def Obligations.KeyWaitEnters : Prop :=
  ∀ (x : RegIdx) (s : State), s.awaitingKey = false →
    ∃ t, exec (.ldVxK x) s = .next t ∧ t.awaitingKey = true ∧ t.prevkey = s.key ∧ t.pc = s.pc - 2#16 ∧
      KeptBut { pc := true, keyWait := true } s t

/-- Rules R174 and R176, under both values of `KEYWAIT_EDGE`: the lowest qualifying key resolves the wait; with none the wait stays
pending with the new snapshot. -/
def Obligations.KeyWaitResolvesOnLowestKey : Prop :=
  ∀ (x : RegIdx) (s : State), s.awaitingKey = true →
    (∀ k : RegIdx, KeyQualifies s.params.keywaitEdge s.prevkey s.key k →
      (∀ j : RegIdx, j < k → ¬KeyQualifies s.params.keywaitEdge s.prevkey s.key j) →
      ∃ t, exec (.ldVxK x) s = .next t ∧ (t.readV x).toNat = k.val ∧ t.awaitingKey = false ∧ t.prevkey = s.prevkey ∧
        (∀ r, r ≠ x → t.readV r = s.readV r) ∧ KeptBut { bank := true, keyWait := true } s t) ∧
    ((∀ k : RegIdx, ¬KeyQualifies s.params.keywaitEdge s.prevkey s.key k) →
      ∃ t, exec (.ldVxK x) s = .next t ∧ t.awaitingKey = true ∧ t.prevkey = s.key ∧ t.pc = s.pc - 2#16 ∧
        KeptBut { pc := true, keyWait := true } s t)

/-- Rule R177 (d) and (e): a pending wait with no qualifying key in this tick's snapshot leaves the program where it is; only
`prevkey` and the timers move. `key` is loaded with the tick's input, and `display_dirty` shows the host's redraw before it
(log entries 1 and 7). -/
def Obligations.PendingWaitStaysInPlace : Prop :=
  ∀ (x : RegIdx) (s : State), s.AtInstr (.ldVxK x) → s.awaitingKey = true →
    (∀ k : RegIdx, ¬KeyQualifies s.params.keywaitEdge s.prevkey s.nextInput.keys k) →
    ∃ t, step s = .next t ∧ t.AtInstr (.ldVxK x) ∧ t.pc = s.pc ∧ t.awaitingKey = true ∧ t.prevkey = s.nextInput.keys ∧
      t.v = s.v ∧ t.index = s.index ∧ t.stack = s.stack ∧ t.sp = s.sp ∧ t.fb = s.fb ∧ t.mem = s.mem ∧
      t.dt.toNat = s.dt.toNat - 1 ∧ t.st.toNat = s.st.toNat - 1 ∧
      t.key = s.nextInput.keys ∧ t.params = s.params ∧ t.displayDirty = (s.displayDirty && !s.nextInput.redrawn)

/-- Rule R177 (d): a pending wait over any number of ticks without a key transition leaves the registers alone, stays pending after
every one of them and never advances `PC`, under both values of `KEYWAIT_EDGE`. The inputs are those listed in the state. -/
def Obligations.WaitWithoutTransitionsNeverEnds : Prop :=
  ∀ (x : RegIdx) (s : State), s.AtInstr (.ldVxK x) → s.awaitingKey = true →
    (∀ inp ∈ s.inputs, inp.keys = s.prevkey) →
    ∀ k : Nat, k ≤ s.inputs.length → ∃ t, Sys2Proof.core.run k s = .next t ∧ t.v = s.v ∧ t.awaitingKey = true ∧ t.pc = s.pc ∧
      t.mem = s.mem ∧ t.dt.toNat = s.dt.toNat - k ∧ t.st.toNat = s.st.toNat - k
end

