-- ==== Sys2Proof/Laws/Decode.lean ====
section
/-! SUPPORT. The fields of a word put together from its fields, a word taken apart and put together again, and the same for its two
bytes: what every proof about decoding and encoding needs of bits. -/

namespace Sys2Proof

@[simp] theorem regOf_nibble (x : RegIdx) : regOf (nibble x) = x := rfl

@[simp] theorem nibble_regOf (n : Nibble) : nibble (regOf n) = n := rfl

/-! ### Fields of a word in each format -/

/-- Format `XKK` and `XSS`. -/
theorem fieldsOf_kk (f : Nibble) (x : RegIdx) (kk : Byte) :
    fieldsOf (f ++ nibble x ++ kk) =
      { family := f, x := x, y := regOf (kk.extractLsb' 4 4), n := kk.extractLsb' 0 4, kk := kk,
        nnn := nibble x ++ kk } := by
  rw [fieldsOf, Fields.mk.injEq]
  refine ⟨?_, congrArg regOf (a₂ := nibble x) ?_, congrArg regOf ?_, ?_, ?_, ?_⟩ <;> ext j hj <;>
    simp <;> grind

/-- Format `NNN`. -/
theorem fieldsOf_nnn (f : Nibble) (nnn : Addr12) :
    fieldsOf (f ++ nnn) =
      { family := f, x := regOf (nnn.extractLsb' 8 4), y := regOf (nnn.extractLsb' 4 4), n := nnn.extractLsb' 0 4,
        kk := nnn.extractLsb' 0 8, nnn := nnn } := by
  rw [fieldsOf, Fields.mk.injEq]
  refine ⟨?_, congrArg regOf ?_, congrArg regOf ?_, ?_, ?_, ?_⟩ <;> ext j hj <;>
    simp <;> grind

/-- Format `XYN`. -/
theorem fieldsOf_xyn (f : Nibble) (x y : RegIdx) (n : Nibble) :
    fieldsOf (f ++ nibble x ++ nibble y ++ n) =
      { family := f, x := x, y := y, n := n, kk := nibble y ++ n, nnn := nibble x ++ nibble y ++ n } := by
  rw [fieldsOf, Fields.mk.injEq]
  refine ⟨?_, congrArg regOf (a₂ := nibble x) ?_, congrArg regOf (a₂ := nibble y) ?_, ?_, ?_, ?_⟩ <;> ext j hj <;>
    simp <;> grind

/-! ### A word from its own fields -/

theorem word_of_family_nnn (w : Word) : ((fieldsOf w).family ++ (fieldsOf w).nnn : Word) = w := by
  ext j hj; simp [fieldsOf]; grind

theorem word_of_family_x_kk (w : Word) :
    ((fieldsOf w).family ++ nibble (fieldsOf w).x ++ (fieldsOf w).kk : Word) = w := by
  simp only [fieldsOf, nibble_regOf]
  ext j hj; simp; grind

theorem word_of_family_x_y_n (w : Word) :
    ((fieldsOf w).family ++ nibble (fieldsOf w).x ++ nibble (fieldsOf w).y ++ (fieldsOf w).n : Word) = w := by
  simp only [fieldsOf, nibble_regOf]
  ext j hj; simp; grind

/-! ### Masks of the table -/

theorem mask_family_x_kk (f : Nibble) (x : RegIdx) (kk : Byte) :
    (f ++ nibble x ++ kk : Word) &&& 0xF000#16 = f ++ 0x0#4 ++ 0x00#8 := by
  ext j hj; interval_cases j <;> simp <;> grind

theorem mask_family_x_ss (f : Nibble) (x : RegIdx) (kk : Byte) :
    (f ++ nibble x ++ kk : Word) &&& 0xF0FF#16 = f ++ 0x0#4 ++ kk := by
  ext j hj; interval_cases j <;> simp <;> grind

theorem mask_family_nnn (f : Nibble) (nnn : Addr12) : (f ++ nnn : Word) &&& 0xF000#16 = f ++ 0x000#12 := by
  ext j hj; interval_cases j <;> simp <;> grind

theorem mask_family_x_y_n (f : Nibble) (x y : RegIdx) (n : Nibble) :
    (f ++ nibble x ++ nibble y ++ n : Word) &&& 0xF00F#16 = f ++ 0x0#4 ++ 0x0#4 ++ n := by
  ext j hj; interval_cases j <;> simp <;> grind

theorem mask_family_x_y_count (f : Nibble) (x y : RegIdx) (n : Nibble) :
    (f ++ nibble x ++ nibble y ++ n : Word) &&& 0xF000#16 = f ++ 0x0#4 ++ 0x0#4 ++ 0x0#4 := by
  ext j hj; interval_cases j <;> simp <;> grind

/-! ### Bytes -/

/-- The two bytes of a word make the word (rule R40). -/
@[simp] theorem wordOfBytes_wordBytes (w : Word) : wordOfBytes (w.extractLsb' 8 8) (w.extractLsb' 0 8) = w := by
  unfold wordOfBytes
  ext j hj; simp; grind

/-- Decoding the two bytes of a word decodes the word. -/
theorem decodeBytes_wordBytes (w : Word) (rest : List Byte) :
    decodeBytes (wordBytes w ++ rest) = (decodeWord w).map (·, rest) := by
  simp only [wordBytes, List.cons_append, List.nil_append, decodeBytes, wordOfBytes_wordBytes]
  cases decodeWord w <;> rfl

theorem decodeWord_eq_ok {w : Word} {i : Instr} : decodeWord w = .ok i ↔ selectInstr (fieldsOf w) = some i := by
  unfold decodeWord; cases selectInstr (fieldsOf w) <;> simp

theorem decodeWord_eq_error {w : Word} {e : DecodeError} :
    decodeWord w = .error e ↔ selectInstr (fieldsOf w) = none ∧ e = .illegal w := by
  unfold decodeWord; cases selectInstr (fieldsOf w) <;> simp [eq_comm]

end Sys2Proof
end

