-- ==== Sys2Proof/Laws/Memory.lean ====
section
/-! SUPPORT. The laws of memory: what a read gives after a write or a block of writes, and that every operation keeps the
canonical form `Memory.wf`. -/

namespace Sys2Proof.Machine

/-! ### Reads after one write -/

@[simp] theorem Memory.read_list (m : Memory) (a k : Nat) (b : Byte) :
    (m.list a b).read k = if k = a then b else m.read k := by
  induction m with
  | nil => simp only [Memory.list, Memory.read]; grind
  | cons e m ih =>
    obtain ⟨j, c⟩ := e
    unfold Memory.list
    split
    · simp only [Memory.read]; grind
    · split <;> simp only [Memory.read, ih] <;> grind

@[simp] theorem Memory.read_unlist (m : Memory) (a k : Nat) :
    (m.unlist a).read k = if k = a then initialByte a else m.read k := by
  induction m with
  | nil => simp only [Memory.unlist, Memory.read]; split <;> simp_all
  | cons e m ih =>
    obtain ⟨j, c⟩ := e
    unfold Memory.unlist
    split <;> simp only [Memory.read, ih] <;> grind

/-- A read after a write gives the byte written at that address and what was there at every other. -/
theorem Memory.read_write (m : Memory) (a k : Nat) (b : Byte) (h : a < Config.memSize) :
    (m.write a b).read k = if k = a then b else m.read k := by
  unfold Memory.write
  split
  · split <;> simp_all
  · contradiction

theorem Memory.read_write_other (m : Memory) (a k : Nat) (b : Byte) (h : k ≠ a) : (m.write a b).read k = m.read k := by
  unfold Memory.write
  split
  · split <;> simp [h]
  · rfl

/-! ### Reads after a block of writes -/

/-- A block of writes changes no byte outside the block. -/
theorem Memory.read_storeBytes_other (m : Memory) (base k : Nat) (bs : List Byte)
    (h : k < base ∨ base + bs.length ≤ k) : (m.storeBytes base bs).read k = m.read k := by
  induction bs generalizing m base with
  | nil => rfl
  | cons b bs ih =>
    simp only [Memory.storeBytes, List.length_cons] at *
    rw [ih _ _ (by omega), Memory.read_write_other _ _ _ _ (by omega)]

/-- Inside the block each byte is the one stored there. -/
theorem Memory.read_storeBytes_inside (m : Memory) (base j : Nat) (bs : List Byte)
    (hj : j < bs.length) (h : base + bs.length ≤ Config.memSize) : (m.storeBytes base bs).read (base + j) = bs[j] := by
  induction bs generalizing m base j with
  | nil => simp at hj
  | cons b bs ih =>
    simp only [Memory.storeBytes, List.length_cons] at *
    cases j with
    | zero =>
      rw [Memory.read_storeBytes_other _ _ _ _ (by omega), Memory.read_write _ _ _ _ (by omega)]
      simp
    | succ j =>
      have hj' : j < bs.length := by simpa using hj
      rw [show base + (j + 1) = base + 1 + j by omega, ih _ _ _ hj' (by omega)]
      simp

@[simp] theorem Memory.length_readBytes (m : Memory) (base n : Nat) : (m.readBytes base n).length = n := by
  induction n generalizing base with
  | zero => rfl
  | succ n ih => simp [Memory.readBytes, ih]

theorem Memory.getElem_readBytes (m : Memory) (base n j : Nat) (h : j < (m.readBytes base n).length) :
    (m.readBytes base n)[j] = m.read (base + j) := by
  induction n generalizing base j with
  | zero => simp at h
  | succ n ih =>
    cases j with
    | zero => rfl
    | succ j =>
      simp only [Memory.readBytes, List.getElem_cons_succ]
      rw [ih, show base + 1 + j = base + (j + 1) by omega]

/-! ### The canonical form -/

theorem Memory.wfFrom_le {lo hi : Nat} {m : Memory} (h : lo ≤ hi) (hm : m.wfFrom hi = true) : m.wfFrom lo = true := by
  cases m with
  | nil => rfl
  | cons e m =>
    simp only [Memory.wfFrom, Bool.and_eq_true, decide_eq_true_eq] at hm ⊢
    exact ⟨⟨⟨by omega, hm.1.1.2⟩, hm.1.2⟩, hm.2⟩

theorem Memory.wfFrom_list {lo : Nat} {m : Memory} {a : Nat} {b : Byte} (hm : m.wfFrom lo = true) (hlo : lo ≤ a)
    (ha : a < Config.memSize) (hb : b ≠ initialByte a) : (m.list a b).wfFrom lo = true := by
  induction m generalizing lo with
  | nil => simp [Memory.list, Memory.wfFrom, hlo, ha, hb]
  | cons e m ih =>
    obtain ⟨k, c⟩ := e
    simp only [Memory.wfFrom, Bool.and_eq_true, decide_eq_true_eq] at hm
    obtain ⟨⟨⟨h1, h2⟩, h3⟩, h4⟩ := hm
    unfold Memory.list
    split
    · simp only [Memory.wfFrom, Bool.and_eq_true, decide_eq_true_eq]
      exact ⟨⟨⟨hlo, ha⟩, hb⟩, ⟨⟨by omega, h2⟩, h3⟩, h4⟩
    · split
      · subst_vars
        simp only [Memory.wfFrom, Bool.and_eq_true, decide_eq_true_eq]
        exact ⟨⟨⟨hlo, ha⟩, hb⟩, h4⟩
      · simp only [Memory.wfFrom, Bool.and_eq_true, decide_eq_true_eq]
        exact ⟨⟨⟨h1, h2⟩, h3⟩, ih h4 (by omega)⟩

theorem Memory.wfFrom_unlist {lo : Nat} {m : Memory} (a : Nat) (hm : m.wfFrom lo = true) :
    (m.unlist a).wfFrom lo = true := by
  induction m generalizing lo with
  | nil => rfl
  | cons e m ih =>
    obtain ⟨k, c⟩ := e
    simp only [Memory.wfFrom, Bool.and_eq_true, decide_eq_true_eq] at hm
    obtain ⟨⟨⟨h1, h2⟩, h3⟩, h4⟩ := hm
    unfold Memory.unlist
    split
    · exact ih (Memory.wfFrom_le (by omega) h4)
    · simp only [Memory.wfFrom, Bool.and_eq_true, decide_eq_true_eq]
      exact ⟨⟨⟨h1, h2⟩, h3⟩, ih h4⟩

/-- A write keeps the canonical form. -/
theorem Memory.wf_write {m : Memory} (a : Nat) (b : Byte) (hm : m.wf = true) : (m.write a b).wf = true := by
  unfold Memory.write Memory.wf at *
  split
  · split
    · exact Memory.wfFrom_unlist a hm
    · exact Memory.wfFrom_list hm (Nat.zero_le a) ‹_› ‹_›
  · exact hm

/-- A block of writes keeps the canonical form. -/
theorem Memory.wf_storeBytes {m : Memory} (base : Nat) (bs : List Byte) (hm : m.wf = true) :
    (m.storeBytes base bs).wf = true := by
  induction bs generalizing m base with
  | nil => exact hm
  | cons b bs ih => exact ih _ (Memory.wf_write base b hm)

/-- The memory that lists nothing is in canonical form. -/
theorem Memory.wf_nil : Memory.wf [] = true := rfl

theorem Memory.read_below {lo k : Nat} {m : Memory} (hm : m.wfFrom lo = true) (hk : k < lo) :
    m.read k = initialByte k := by
  induction m generalizing lo with
  | nil => rfl
  | cons e m ih =>
    obtain ⟨j, c⟩ := e
    simp only [Memory.wfFrom, Bool.and_eq_true, decide_eq_true_eq] at hm
    obtain ⟨⟨⟨h1, -⟩, -⟩, h4⟩ := hm
    rw [Memory.read, if_neg (by omega), ih h4 (by omega)]

/-- Equal memories are equal lists: two memories in canonical form that read alike at every address are the same list. -/
theorem Memory.eq_of_read_eq {lo : Nat} {m m' : Memory} (hm : m.wfFrom lo = true) (hm' : m'.wfFrom lo = true)
    (h : ∀ a, m.read a = m'.read a) : m = m' := by
  induction m generalizing lo m' with
  | nil =>
    cases m' with
    | nil => rfl
    | cons e m' =>
      obtain ⟨k, c⟩ := e
      simp only [Memory.wfFrom, Bool.and_eq_true, decide_eq_true_eq] at hm'
      have := h k
      simp only [Memory.read, if_true] at this
      exact absurd this.symm hm'.1.2
  | cons e m ih =>
    obtain ⟨k, c⟩ := e
    have hw := hm
    simp only [Memory.wfFrom, Bool.and_eq_true, decide_eq_true_eq] at hm
    cases m' with
    | nil =>
      have := h k
      simp only [Memory.read, if_true] at this
      exact absurd this hm.1.2
    | cons e' m' =>
      obtain ⟨k', c'⟩ := e'
      have hw' := hm'
      simp only [Memory.wfFrom, Bool.and_eq_true, decide_eq_true_eq] at hm'
      have hk : k = k' := by
        rcases Nat.lt_trichotomy k k' with hlt | heq | hgt
        · have h1 := h k
          rw [Memory.read, if_pos rfl, Memory.read, if_neg (by omega), Memory.read_below hm'.2 (by omega)] at h1
          exact absurd h1 hm.1.2
        · exact heq
        · have h1 := h k'
          rw [Memory.read, if_neg (by omega), Memory.read_below hm.2 (by omega), Memory.read, if_pos rfl] at h1
          exact absurd h1.symm hm'.1.2
      subst hk
      have hc : c = c' := by have h1 := h k; simpa [Memory.read] using h1
      subst hc
      have ht : m = m' := by
        refine ih hm.2 hm'.2 fun a => ?_
        by_cases ha : k = a
        · subst ha
          rw [Memory.read_below hm.2 (by omega), Memory.read_below hm'.2 (by omega)]
        · have h1 := h a
          simpa [Memory.read, ha] using h1
      rw [ht]

end Sys2Proof.Machine
end

