-- ==== Sys2Proof/Laws/State.lean ====
section
/-! SUPPORT. One lemma per field and per observer (`readV`, `pixel`, `byteAt`) for every state update, true by rfl, so that no
later proof unfolds a record update. -/

namespace Sys2Proof.Machine

/-! ### setV -/

@[simp] theorem v_setV (s : State) (x : RegIdx) (b : Byte) : (s.setV x b).v = s.v.set x.val b := rfl
@[simp] theorem index_setV (s : State) (x : RegIdx) (b : Byte) : (s.setV x b).index = s.index := rfl
@[simp] theorem pc_setV (s : State) (x : RegIdx) (b : Byte) : (s.setV x b).pc = s.pc := rfl
@[simp] theorem stack_setV (s : State) (x : RegIdx) (b : Byte) : (s.setV x b).stack = s.stack := rfl
@[simp] theorem sp_setV (s : State) (x : RegIdx) (b : Byte) : (s.setV x b).sp = s.sp := rfl
@[simp] theorem dt_setV (s : State) (x : RegIdx) (b : Byte) : (s.setV x b).dt = s.dt := rfl
@[simp] theorem st_setV (s : State) (x : RegIdx) (b : Byte) : (s.setV x b).st = s.st := rfl
@[simp] theorem fb_setV (s : State) (x : RegIdx) (b : Byte) : (s.setV x b).fb = s.fb := rfl
@[simp] theorem key_setV (s : State) (x : RegIdx) (b : Byte) : (s.setV x b).key = s.key := rfl
@[simp] theorem prevkey_setV (s : State) (x : RegIdx) (b : Byte) : (s.setV x b).prevkey = s.prevkey := rfl
@[simp] theorem awaitingKey_setV (s : State) (x : RegIdx) (b : Byte) : (s.setV x b).awaitingKey = s.awaitingKey := rfl
@[simp] theorem displayDirty_setV (s : State) (x : RegIdx) (b : Byte) : (s.setV x b).displayDirty = s.displayDirty := rfl
@[simp] theorem mem_setV (s : State) (x : RegIdx) (b : Byte) : (s.setV x b).mem = s.mem := rfl
@[simp] theorem params_setV (s : State) (x : RegIdx) (b : Byte) : (s.setV x b).params = s.params := rfl
@[simp] theorem rnd_setV (s : State) (x : RegIdx) (b : Byte) : (s.setV x b).rnd = s.rnd := rfl
@[simp] theorem inputs_setV (s : State) (x : RegIdx) (b : Byte) : (s.setV x b).inputs = s.inputs := rfl
@[simp] theorem ticks_setV (s : State) (x : RegIdx) (b : Byte) : (s.setV x b).ticks = s.ticks := rfl
@[simp] theorem pixel_setV (s : State) (x : RegIdx) (b : Byte) (row : Fin 32) (col : Fin 64) : (s.setV x b).pixel row col = s.pixel row col := rfl
@[simp] theorem byteAt_setV (s : State) (x : RegIdx) (b : Byte) (addr : Nat) : (s.setV x b).byteAt addr = s.byteAt addr := rfl

/-! ### setBank -/

@[simp] theorem v_setBank (s : State) (w : Vector Byte 16) : (s.setBank w).v = w := rfl
@[simp] theorem index_setBank (s : State) (w : Vector Byte 16) : (s.setBank w).index = s.index := rfl
@[simp] theorem pc_setBank (s : State) (w : Vector Byte 16) : (s.setBank w).pc = s.pc := rfl
@[simp] theorem stack_setBank (s : State) (w : Vector Byte 16) : (s.setBank w).stack = s.stack := rfl
@[simp] theorem sp_setBank (s : State) (w : Vector Byte 16) : (s.setBank w).sp = s.sp := rfl
@[simp] theorem dt_setBank (s : State) (w : Vector Byte 16) : (s.setBank w).dt = s.dt := rfl
@[simp] theorem st_setBank (s : State) (w : Vector Byte 16) : (s.setBank w).st = s.st := rfl
@[simp] theorem fb_setBank (s : State) (w : Vector Byte 16) : (s.setBank w).fb = s.fb := rfl
@[simp] theorem key_setBank (s : State) (w : Vector Byte 16) : (s.setBank w).key = s.key := rfl
@[simp] theorem prevkey_setBank (s : State) (w : Vector Byte 16) : (s.setBank w).prevkey = s.prevkey := rfl
@[simp] theorem awaitingKey_setBank (s : State) (w : Vector Byte 16) : (s.setBank w).awaitingKey = s.awaitingKey := rfl
@[simp] theorem displayDirty_setBank (s : State) (w : Vector Byte 16) : (s.setBank w).displayDirty = s.displayDirty := rfl
@[simp] theorem mem_setBank (s : State) (w : Vector Byte 16) : (s.setBank w).mem = s.mem := rfl
@[simp] theorem params_setBank (s : State) (w : Vector Byte 16) : (s.setBank w).params = s.params := rfl
@[simp] theorem rnd_setBank (s : State) (w : Vector Byte 16) : (s.setBank w).rnd = s.rnd := rfl
@[simp] theorem inputs_setBank (s : State) (w : Vector Byte 16) : (s.setBank w).inputs = s.inputs := rfl
@[simp] theorem ticks_setBank (s : State) (w : Vector Byte 16) : (s.setBank w).ticks = s.ticks := rfl
@[simp] theorem pixel_setBank (s : State) (w : Vector Byte 16) (row : Fin 32) (col : Fin 64) : (s.setBank w).pixel row col = s.pixel row col := rfl
@[simp] theorem byteAt_setBank (s : State) (w : Vector Byte 16) (addr : Nat) : (s.setBank w).byteAt addr = s.byteAt addr := rfl

/-! ### setPc -/

@[simp] theorem v_setPc (s : State) (p : Word) : (s.setPc p).v = s.v := rfl
@[simp] theorem index_setPc (s : State) (p : Word) : (s.setPc p).index = s.index := rfl
@[simp] theorem pc_setPc (s : State) (p : Word) : (s.setPc p).pc = p := rfl
@[simp] theorem stack_setPc (s : State) (p : Word) : (s.setPc p).stack = s.stack := rfl
@[simp] theorem sp_setPc (s : State) (p : Word) : (s.setPc p).sp = s.sp := rfl
@[simp] theorem dt_setPc (s : State) (p : Word) : (s.setPc p).dt = s.dt := rfl
@[simp] theorem st_setPc (s : State) (p : Word) : (s.setPc p).st = s.st := rfl
@[simp] theorem fb_setPc (s : State) (p : Word) : (s.setPc p).fb = s.fb := rfl
@[simp] theorem key_setPc (s : State) (p : Word) : (s.setPc p).key = s.key := rfl
@[simp] theorem prevkey_setPc (s : State) (p : Word) : (s.setPc p).prevkey = s.prevkey := rfl
@[simp] theorem awaitingKey_setPc (s : State) (p : Word) : (s.setPc p).awaitingKey = s.awaitingKey := rfl
@[simp] theorem displayDirty_setPc (s : State) (p : Word) : (s.setPc p).displayDirty = s.displayDirty := rfl
@[simp] theorem mem_setPc (s : State) (p : Word) : (s.setPc p).mem = s.mem := rfl
@[simp] theorem params_setPc (s : State) (p : Word) : (s.setPc p).params = s.params := rfl
@[simp] theorem rnd_setPc (s : State) (p : Word) : (s.setPc p).rnd = s.rnd := rfl
@[simp] theorem inputs_setPc (s : State) (p : Word) : (s.setPc p).inputs = s.inputs := rfl
@[simp] theorem ticks_setPc (s : State) (p : Word) : (s.setPc p).ticks = s.ticks := rfl
@[simp] theorem readV_setPc (s : State) (p : Word) (r : RegIdx) : (s.setPc p).readV r = s.readV r := rfl
@[simp] theorem pixel_setPc (s : State) (p : Word) (row : Fin 32) (col : Fin 64) : (s.setPc p).pixel row col = s.pixel row col := rfl
@[simp] theorem byteAt_setPc (s : State) (p : Word) (addr : Nat) : (s.setPc p).byteAt addr = s.byteAt addr := rfl

/-! ### setIndex -/

@[simp] theorem v_setIndex (s : State) (a : Word) : (s.setIndex a).v = s.v := rfl
@[simp] theorem index_setIndex (s : State) (a : Word) : (s.setIndex a).index = a := rfl
@[simp] theorem pc_setIndex (s : State) (a : Word) : (s.setIndex a).pc = s.pc := rfl
@[simp] theorem stack_setIndex (s : State) (a : Word) : (s.setIndex a).stack = s.stack := rfl
@[simp] theorem sp_setIndex (s : State) (a : Word) : (s.setIndex a).sp = s.sp := rfl
@[simp] theorem dt_setIndex (s : State) (a : Word) : (s.setIndex a).dt = s.dt := rfl
@[simp] theorem st_setIndex (s : State) (a : Word) : (s.setIndex a).st = s.st := rfl
@[simp] theorem fb_setIndex (s : State) (a : Word) : (s.setIndex a).fb = s.fb := rfl
@[simp] theorem key_setIndex (s : State) (a : Word) : (s.setIndex a).key = s.key := rfl
@[simp] theorem prevkey_setIndex (s : State) (a : Word) : (s.setIndex a).prevkey = s.prevkey := rfl
@[simp] theorem awaitingKey_setIndex (s : State) (a : Word) : (s.setIndex a).awaitingKey = s.awaitingKey := rfl
@[simp] theorem displayDirty_setIndex (s : State) (a : Word) : (s.setIndex a).displayDirty = s.displayDirty := rfl
@[simp] theorem mem_setIndex (s : State) (a : Word) : (s.setIndex a).mem = s.mem := rfl
@[simp] theorem params_setIndex (s : State) (a : Word) : (s.setIndex a).params = s.params := rfl
@[simp] theorem rnd_setIndex (s : State) (a : Word) : (s.setIndex a).rnd = s.rnd := rfl
@[simp] theorem inputs_setIndex (s : State) (a : Word) : (s.setIndex a).inputs = s.inputs := rfl
@[simp] theorem ticks_setIndex (s : State) (a : Word) : (s.setIndex a).ticks = s.ticks := rfl
@[simp] theorem readV_setIndex (s : State) (a : Word) (r : RegIdx) : (s.setIndex a).readV r = s.readV r := rfl
@[simp] theorem pixel_setIndex (s : State) (a : Word) (row : Fin 32) (col : Fin 64) : (s.setIndex a).pixel row col = s.pixel row col := rfl
@[simp] theorem byteAt_setIndex (s : State) (a : Word) (addr : Nat) : (s.setIndex a).byteAt addr = s.byteAt addr := rfl

/-! ### setDt -/

@[simp] theorem v_setDt (s : State) (b : Byte) : (s.setDt b).v = s.v := rfl
@[simp] theorem index_setDt (s : State) (b : Byte) : (s.setDt b).index = s.index := rfl
@[simp] theorem pc_setDt (s : State) (b : Byte) : (s.setDt b).pc = s.pc := rfl
@[simp] theorem stack_setDt (s : State) (b : Byte) : (s.setDt b).stack = s.stack := rfl
@[simp] theorem sp_setDt (s : State) (b : Byte) : (s.setDt b).sp = s.sp := rfl
@[simp] theorem dt_setDt (s : State) (b : Byte) : (s.setDt b).dt = b := rfl
@[simp] theorem st_setDt (s : State) (b : Byte) : (s.setDt b).st = s.st := rfl
@[simp] theorem fb_setDt (s : State) (b : Byte) : (s.setDt b).fb = s.fb := rfl
@[simp] theorem key_setDt (s : State) (b : Byte) : (s.setDt b).key = s.key := rfl
@[simp] theorem prevkey_setDt (s : State) (b : Byte) : (s.setDt b).prevkey = s.prevkey := rfl
@[simp] theorem awaitingKey_setDt (s : State) (b : Byte) : (s.setDt b).awaitingKey = s.awaitingKey := rfl
@[simp] theorem displayDirty_setDt (s : State) (b : Byte) : (s.setDt b).displayDirty = s.displayDirty := rfl
@[simp] theorem mem_setDt (s : State) (b : Byte) : (s.setDt b).mem = s.mem := rfl
@[simp] theorem params_setDt (s : State) (b : Byte) : (s.setDt b).params = s.params := rfl
@[simp] theorem rnd_setDt (s : State) (b : Byte) : (s.setDt b).rnd = s.rnd := rfl
@[simp] theorem inputs_setDt (s : State) (b : Byte) : (s.setDt b).inputs = s.inputs := rfl
@[simp] theorem ticks_setDt (s : State) (b : Byte) : (s.setDt b).ticks = s.ticks := rfl
@[simp] theorem readV_setDt (s : State) (b : Byte) (r : RegIdx) : (s.setDt b).readV r = s.readV r := rfl
@[simp] theorem pixel_setDt (s : State) (b : Byte) (row : Fin 32) (col : Fin 64) : (s.setDt b).pixel row col = s.pixel row col := rfl
@[simp] theorem byteAt_setDt (s : State) (b : Byte) (addr : Nat) : (s.setDt b).byteAt addr = s.byteAt addr := rfl

/-! ### setSt -/

@[simp] theorem v_setSt (s : State) (b : Byte) : (s.setSt b).v = s.v := rfl
@[simp] theorem index_setSt (s : State) (b : Byte) : (s.setSt b).index = s.index := rfl
@[simp] theorem pc_setSt (s : State) (b : Byte) : (s.setSt b).pc = s.pc := rfl
@[simp] theorem stack_setSt (s : State) (b : Byte) : (s.setSt b).stack = s.stack := rfl
@[simp] theorem sp_setSt (s : State) (b : Byte) : (s.setSt b).sp = s.sp := rfl
@[simp] theorem dt_setSt (s : State) (b : Byte) : (s.setSt b).dt = s.dt := rfl
@[simp] theorem st_setSt (s : State) (b : Byte) : (s.setSt b).st = b := rfl
@[simp] theorem fb_setSt (s : State) (b : Byte) : (s.setSt b).fb = s.fb := rfl
@[simp] theorem key_setSt (s : State) (b : Byte) : (s.setSt b).key = s.key := rfl
@[simp] theorem prevkey_setSt (s : State) (b : Byte) : (s.setSt b).prevkey = s.prevkey := rfl
@[simp] theorem awaitingKey_setSt (s : State) (b : Byte) : (s.setSt b).awaitingKey = s.awaitingKey := rfl
@[simp] theorem displayDirty_setSt (s : State) (b : Byte) : (s.setSt b).displayDirty = s.displayDirty := rfl
@[simp] theorem mem_setSt (s : State) (b : Byte) : (s.setSt b).mem = s.mem := rfl
@[simp] theorem params_setSt (s : State) (b : Byte) : (s.setSt b).params = s.params := rfl
@[simp] theorem rnd_setSt (s : State) (b : Byte) : (s.setSt b).rnd = s.rnd := rfl
@[simp] theorem inputs_setSt (s : State) (b : Byte) : (s.setSt b).inputs = s.inputs := rfl
@[simp] theorem ticks_setSt (s : State) (b : Byte) : (s.setSt b).ticks = s.ticks := rfl
@[simp] theorem readV_setSt (s : State) (b : Byte) (r : RegIdx) : (s.setSt b).readV r = s.readV r := rfl
@[simp] theorem pixel_setSt (s : State) (b : Byte) (row : Fin 32) (col : Fin 64) : (s.setSt b).pixel row col = s.pixel row col := rfl
@[simp] theorem byteAt_setSt (s : State) (b : Byte) (addr : Nat) : (s.setSt b).byteAt addr = s.byteAt addr := rfl

/-! ### setMem -/

@[simp] theorem v_setMem (s : State) (m : Memory) : (s.setMem m).v = s.v := rfl
@[simp] theorem index_setMem (s : State) (m : Memory) : (s.setMem m).index = s.index := rfl
@[simp] theorem pc_setMem (s : State) (m : Memory) : (s.setMem m).pc = s.pc := rfl
@[simp] theorem stack_setMem (s : State) (m : Memory) : (s.setMem m).stack = s.stack := rfl
@[simp] theorem sp_setMem (s : State) (m : Memory) : (s.setMem m).sp = s.sp := rfl
@[simp] theorem dt_setMem (s : State) (m : Memory) : (s.setMem m).dt = s.dt := rfl
@[simp] theorem st_setMem (s : State) (m : Memory) : (s.setMem m).st = s.st := rfl
@[simp] theorem fb_setMem (s : State) (m : Memory) : (s.setMem m).fb = s.fb := rfl
@[simp] theorem key_setMem (s : State) (m : Memory) : (s.setMem m).key = s.key := rfl
@[simp] theorem prevkey_setMem (s : State) (m : Memory) : (s.setMem m).prevkey = s.prevkey := rfl
@[simp] theorem awaitingKey_setMem (s : State) (m : Memory) : (s.setMem m).awaitingKey = s.awaitingKey := rfl
@[simp] theorem displayDirty_setMem (s : State) (m : Memory) : (s.setMem m).displayDirty = s.displayDirty := rfl
@[simp] theorem mem_setMem (s : State) (m : Memory) : (s.setMem m).mem = m := rfl
@[simp] theorem params_setMem (s : State) (m : Memory) : (s.setMem m).params = s.params := rfl
@[simp] theorem rnd_setMem (s : State) (m : Memory) : (s.setMem m).rnd = s.rnd := rfl
@[simp] theorem inputs_setMem (s : State) (m : Memory) : (s.setMem m).inputs = s.inputs := rfl
@[simp] theorem ticks_setMem (s : State) (m : Memory) : (s.setMem m).ticks = s.ticks := rfl
@[simp] theorem readV_setMem (s : State) (m : Memory) (r : RegIdx) : (s.setMem m).readV r = s.readV r := rfl
@[simp] theorem pixel_setMem (s : State) (m : Memory) (row : Fin 32) (col : Fin 64) : (s.setMem m).pixel row col = s.pixel row col := rfl

/-! ### setScreen -/

@[simp] theorem v_setScreen (s : State) (g : Vector Row 32) : (s.setScreen g).v = s.v := rfl
@[simp] theorem index_setScreen (s : State) (g : Vector Row 32) : (s.setScreen g).index = s.index := rfl
@[simp] theorem pc_setScreen (s : State) (g : Vector Row 32) : (s.setScreen g).pc = s.pc := rfl
@[simp] theorem stack_setScreen (s : State) (g : Vector Row 32) : (s.setScreen g).stack = s.stack := rfl
@[simp] theorem sp_setScreen (s : State) (g : Vector Row 32) : (s.setScreen g).sp = s.sp := rfl
@[simp] theorem dt_setScreen (s : State) (g : Vector Row 32) : (s.setScreen g).dt = s.dt := rfl
@[simp] theorem st_setScreen (s : State) (g : Vector Row 32) : (s.setScreen g).st = s.st := rfl
@[simp] theorem fb_setScreen (s : State) (g : Vector Row 32) : (s.setScreen g).fb = g := rfl
@[simp] theorem key_setScreen (s : State) (g : Vector Row 32) : (s.setScreen g).key = s.key := rfl
@[simp] theorem prevkey_setScreen (s : State) (g : Vector Row 32) : (s.setScreen g).prevkey = s.prevkey := rfl
@[simp] theorem awaitingKey_setScreen (s : State) (g : Vector Row 32) : (s.setScreen g).awaitingKey = s.awaitingKey := rfl
@[simp] theorem displayDirty_setScreen (s : State) (g : Vector Row 32) : (s.setScreen g).displayDirty = true := rfl
@[simp] theorem mem_setScreen (s : State) (g : Vector Row 32) : (s.setScreen g).mem = s.mem := rfl
@[simp] theorem params_setScreen (s : State) (g : Vector Row 32) : (s.setScreen g).params = s.params := rfl
@[simp] theorem rnd_setScreen (s : State) (g : Vector Row 32) : (s.setScreen g).rnd = s.rnd := rfl
@[simp] theorem inputs_setScreen (s : State) (g : Vector Row 32) : (s.setScreen g).inputs = s.inputs := rfl
@[simp] theorem ticks_setScreen (s : State) (g : Vector Row 32) : (s.setScreen g).ticks = s.ticks := rfl
@[simp] theorem readV_setScreen (s : State) (g : Vector Row 32) (r : RegIdx) : (s.setScreen g).readV r = s.readV r := rfl
@[simp] theorem byteAt_setScreen (s : State) (g : Vector Row 32) (addr : Nat) : (s.setScreen g).byteAt addr = s.byteAt addr := rfl

/-! ### setAwaiting -/

@[simp] theorem v_setAwaiting (s : State) (b : Bool) : (s.setAwaiting b).v = s.v := rfl
@[simp] theorem index_setAwaiting (s : State) (b : Bool) : (s.setAwaiting b).index = s.index := rfl
@[simp] theorem pc_setAwaiting (s : State) (b : Bool) : (s.setAwaiting b).pc = s.pc := rfl
@[simp] theorem stack_setAwaiting (s : State) (b : Bool) : (s.setAwaiting b).stack = s.stack := rfl
@[simp] theorem sp_setAwaiting (s : State) (b : Bool) : (s.setAwaiting b).sp = s.sp := rfl
@[simp] theorem dt_setAwaiting (s : State) (b : Bool) : (s.setAwaiting b).dt = s.dt := rfl
@[simp] theorem st_setAwaiting (s : State) (b : Bool) : (s.setAwaiting b).st = s.st := rfl
@[simp] theorem fb_setAwaiting (s : State) (b : Bool) : (s.setAwaiting b).fb = s.fb := rfl
@[simp] theorem key_setAwaiting (s : State) (b : Bool) : (s.setAwaiting b).key = s.key := rfl
@[simp] theorem prevkey_setAwaiting (s : State) (b : Bool) : (s.setAwaiting b).prevkey = s.prevkey := rfl
@[simp] theorem awaitingKey_setAwaiting (s : State) (b : Bool) : (s.setAwaiting b).awaitingKey = b := rfl
@[simp] theorem displayDirty_setAwaiting (s : State) (b : Bool) : (s.setAwaiting b).displayDirty = s.displayDirty := rfl
@[simp] theorem mem_setAwaiting (s : State) (b : Bool) : (s.setAwaiting b).mem = s.mem := rfl
@[simp] theorem params_setAwaiting (s : State) (b : Bool) : (s.setAwaiting b).params = s.params := rfl
@[simp] theorem rnd_setAwaiting (s : State) (b : Bool) : (s.setAwaiting b).rnd = s.rnd := rfl
@[simp] theorem inputs_setAwaiting (s : State) (b : Bool) : (s.setAwaiting b).inputs = s.inputs := rfl
@[simp] theorem ticks_setAwaiting (s : State) (b : Bool) : (s.setAwaiting b).ticks = s.ticks := rfl
@[simp] theorem readV_setAwaiting (s : State) (b : Bool) (r : RegIdx) : (s.setAwaiting b).readV r = s.readV r := rfl
@[simp] theorem pixel_setAwaiting (s : State) (b : Bool) (row : Fin 32) (col : Fin 64) : (s.setAwaiting b).pixel row col = s.pixel row col := rfl
@[simp] theorem byteAt_setAwaiting (s : State) (b : Bool) (addr : Nat) : (s.setAwaiting b).byteAt addr = s.byteAt addr := rfl

/-! ### setPrevkey -/

@[simp] theorem v_setPrevkey (s : State) (ks : Keys) : (s.setPrevkey ks).v = s.v := rfl
@[simp] theorem index_setPrevkey (s : State) (ks : Keys) : (s.setPrevkey ks).index = s.index := rfl
@[simp] theorem pc_setPrevkey (s : State) (ks : Keys) : (s.setPrevkey ks).pc = s.pc := rfl
@[simp] theorem stack_setPrevkey (s : State) (ks : Keys) : (s.setPrevkey ks).stack = s.stack := rfl
@[simp] theorem sp_setPrevkey (s : State) (ks : Keys) : (s.setPrevkey ks).sp = s.sp := rfl
@[simp] theorem dt_setPrevkey (s : State) (ks : Keys) : (s.setPrevkey ks).dt = s.dt := rfl
@[simp] theorem st_setPrevkey (s : State) (ks : Keys) : (s.setPrevkey ks).st = s.st := rfl
@[simp] theorem fb_setPrevkey (s : State) (ks : Keys) : (s.setPrevkey ks).fb = s.fb := rfl
@[simp] theorem key_setPrevkey (s : State) (ks : Keys) : (s.setPrevkey ks).key = s.key := rfl
@[simp] theorem prevkey_setPrevkey (s : State) (ks : Keys) : (s.setPrevkey ks).prevkey = ks := rfl
@[simp] theorem awaitingKey_setPrevkey (s : State) (ks : Keys) : (s.setPrevkey ks).awaitingKey = s.awaitingKey := rfl
@[simp] theorem displayDirty_setPrevkey (s : State) (ks : Keys) : (s.setPrevkey ks).displayDirty = s.displayDirty := rfl
@[simp] theorem mem_setPrevkey (s : State) (ks : Keys) : (s.setPrevkey ks).mem = s.mem := rfl
@[simp] theorem params_setPrevkey (s : State) (ks : Keys) : (s.setPrevkey ks).params = s.params := rfl
@[simp] theorem rnd_setPrevkey (s : State) (ks : Keys) : (s.setPrevkey ks).rnd = s.rnd := rfl
@[simp] theorem inputs_setPrevkey (s : State) (ks : Keys) : (s.setPrevkey ks).inputs = s.inputs := rfl
@[simp] theorem ticks_setPrevkey (s : State) (ks : Keys) : (s.setPrevkey ks).ticks = s.ticks := rfl
@[simp] theorem readV_setPrevkey (s : State) (ks : Keys) (r : RegIdx) : (s.setPrevkey ks).readV r = s.readV r := rfl
@[simp] theorem pixel_setPrevkey (s : State) (ks : Keys) (row : Fin 32) (col : Fin 64) : (s.setPrevkey ks).pixel row col = s.pixel row col := rfl
@[simp] theorem byteAt_setPrevkey (s : State) (ks : Keys) (addr : Nat) : (s.setPrevkey ks).byteAt addr = s.byteAt addr := rfl

/-! ### skipIf -/

@[simp] theorem v_skipIf (s : State) (c : Bool) : (s.skipIf c).v = s.v := rfl
@[simp] theorem index_skipIf (s : State) (c : Bool) : (s.skipIf c).index = s.index := rfl
@[simp] theorem pc_skipIf (s : State) (c : Bool) : (s.skipIf c).pc = if c then s.pc + 2#16 else s.pc := rfl
@[simp] theorem stack_skipIf (s : State) (c : Bool) : (s.skipIf c).stack = s.stack := rfl
@[simp] theorem sp_skipIf (s : State) (c : Bool) : (s.skipIf c).sp = s.sp := rfl
@[simp] theorem dt_skipIf (s : State) (c : Bool) : (s.skipIf c).dt = s.dt := rfl
@[simp] theorem st_skipIf (s : State) (c : Bool) : (s.skipIf c).st = s.st := rfl
@[simp] theorem fb_skipIf (s : State) (c : Bool) : (s.skipIf c).fb = s.fb := rfl
@[simp] theorem key_skipIf (s : State) (c : Bool) : (s.skipIf c).key = s.key := rfl
@[simp] theorem prevkey_skipIf (s : State) (c : Bool) : (s.skipIf c).prevkey = s.prevkey := rfl
@[simp] theorem awaitingKey_skipIf (s : State) (c : Bool) : (s.skipIf c).awaitingKey = s.awaitingKey := rfl
@[simp] theorem displayDirty_skipIf (s : State) (c : Bool) : (s.skipIf c).displayDirty = s.displayDirty := rfl
@[simp] theorem mem_skipIf (s : State) (c : Bool) : (s.skipIf c).mem = s.mem := rfl
@[simp] theorem params_skipIf (s : State) (c : Bool) : (s.skipIf c).params = s.params := rfl
@[simp] theorem rnd_skipIf (s : State) (c : Bool) : (s.skipIf c).rnd = s.rnd := rfl
@[simp] theorem inputs_skipIf (s : State) (c : Bool) : (s.skipIf c).inputs = s.inputs := rfl
@[simp] theorem ticks_skipIf (s : State) (c : Bool) : (s.skipIf c).ticks = s.ticks := rfl
@[simp] theorem readV_skipIf (s : State) (c : Bool) (r : RegIdx) : (s.skipIf c).readV r = s.readV r := rfl
@[simp] theorem pixel_skipIf (s : State) (c : Bool) (row : Fin 32) (col : Fin 64) : (s.skipIf c).pixel row col = s.pixel row col := rfl
@[simp] theorem byteAt_skipIf (s : State) (c : Bool) (addr : Nat) : (s.skipIf c).byteAt addr = s.byteAt addr := rfl

/-! ### rewind -/

@[simp] theorem v_rewind (s : State) : s.rewind.v = s.v := rfl
@[simp] theorem index_rewind (s : State) : s.rewind.index = s.index := rfl
@[simp] theorem pc_rewind (s : State) : s.rewind.pc = s.pc - 2#16 := rfl
@[simp] theorem stack_rewind (s : State) : s.rewind.stack = s.stack := rfl
@[simp] theorem sp_rewind (s : State) : s.rewind.sp = s.sp := rfl
@[simp] theorem dt_rewind (s : State) : s.rewind.dt = s.dt := rfl
@[simp] theorem st_rewind (s : State) : s.rewind.st = s.st := rfl
@[simp] theorem fb_rewind (s : State) : s.rewind.fb = s.fb := rfl
@[simp] theorem key_rewind (s : State) : s.rewind.key = s.key := rfl
@[simp] theorem prevkey_rewind (s : State) : s.rewind.prevkey = s.prevkey := rfl
@[simp] theorem awaitingKey_rewind (s : State) : s.rewind.awaitingKey = s.awaitingKey := rfl
@[simp] theorem displayDirty_rewind (s : State) : s.rewind.displayDirty = s.displayDirty := rfl
@[simp] theorem mem_rewind (s : State) : s.rewind.mem = s.mem := rfl
@[simp] theorem params_rewind (s : State) : s.rewind.params = s.params := rfl
@[simp] theorem rnd_rewind (s : State) : s.rewind.rnd = s.rnd := rfl
@[simp] theorem inputs_rewind (s : State) : s.rewind.inputs = s.inputs := rfl
@[simp] theorem ticks_rewind (s : State) : s.rewind.ticks = s.ticks := rfl
@[simp] theorem readV_rewind (s : State) (r : RegIdx) : s.rewind.readV r = s.readV r := rfl
@[simp] theorem pixel_rewind (s : State) (row : Fin 32) (col : Fin 64) : s.rewind.pixel row col = s.pixel row col := rfl
@[simp] theorem byteAt_rewind (s : State) (addr : Nat) : s.rewind.byteAt addr = s.byteAt addr := rfl

/-! ### push -/

@[simp] theorem v_push (s : State) (p : Word) (h : s.sp.val < 16) : (s.push p h).v = s.v := rfl
@[simp] theorem index_push (s : State) (p : Word) (h : s.sp.val < 16) : (s.push p h).index = s.index := rfl
@[simp] theorem pc_push (s : State) (p : Word) (h : s.sp.val < 16) : (s.push p h).pc = s.pc := rfl
@[simp] theorem stack_push (s : State) (p : Word) (h : s.sp.val < 16) : (s.push p h).stack = s.stack.set s.sp.val p := rfl
@[simp] theorem sp_push (s : State) (p : Word) (h : s.sp.val < 16) : (s.push p h).sp = ⟨s.sp.val + 1, by omega⟩ := rfl
@[simp] theorem dt_push (s : State) (p : Word) (h : s.sp.val < 16) : (s.push p h).dt = s.dt := rfl
@[simp] theorem st_push (s : State) (p : Word) (h : s.sp.val < 16) : (s.push p h).st = s.st := rfl
@[simp] theorem fb_push (s : State) (p : Word) (h : s.sp.val < 16) : (s.push p h).fb = s.fb := rfl
@[simp] theorem key_push (s : State) (p : Word) (h : s.sp.val < 16) : (s.push p h).key = s.key := rfl
@[simp] theorem prevkey_push (s : State) (p : Word) (h : s.sp.val < 16) : (s.push p h).prevkey = s.prevkey := rfl
@[simp] theorem awaitingKey_push (s : State) (p : Word) (h : s.sp.val < 16) : (s.push p h).awaitingKey = s.awaitingKey := rfl
@[simp] theorem displayDirty_push (s : State) (p : Word) (h : s.sp.val < 16) : (s.push p h).displayDirty = s.displayDirty := rfl
@[simp] theorem mem_push (s : State) (p : Word) (h : s.sp.val < 16) : (s.push p h).mem = s.mem := rfl
@[simp] theorem params_push (s : State) (p : Word) (h : s.sp.val < 16) : (s.push p h).params = s.params := rfl
@[simp] theorem rnd_push (s : State) (p : Word) (h : s.sp.val < 16) : (s.push p h).rnd = s.rnd := rfl
@[simp] theorem inputs_push (s : State) (p : Word) (h : s.sp.val < 16) : (s.push p h).inputs = s.inputs := rfl
@[simp] theorem ticks_push (s : State) (p : Word) (h : s.sp.val < 16) : (s.push p h).ticks = s.ticks := rfl
@[simp] theorem readV_push (s : State) (p : Word) (h : s.sp.val < 16) (r : RegIdx) : (s.push p h).readV r = s.readV r := rfl
@[simp] theorem pixel_push (s : State) (p : Word) (h : s.sp.val < 16) (row : Fin 32) (col : Fin 64) : (s.push p h).pixel row col = s.pixel row col := rfl
@[simp] theorem byteAt_push (s : State) (p : Word) (h : s.sp.val < 16) (addr : Nat) : (s.push p h).byteAt addr = s.byteAt addr := rfl

/-! ### pop -/

@[simp] theorem v_pop (s : State) (h : 0 < s.sp.val) : (s.pop h).v = s.v := rfl
@[simp] theorem index_pop (s : State) (h : 0 < s.sp.val) : (s.pop h).index = s.index := rfl
@[simp] theorem pc_pop (s : State) (h : 0 < s.sp.val) : (s.pop h).pc = s.stack[s.sp.val - 1]'(by omega) := rfl
@[simp] theorem stack_pop (s : State) (h : 0 < s.sp.val) : (s.pop h).stack = s.stack := rfl
@[simp] theorem sp_pop (s : State) (h : 0 < s.sp.val) : (s.pop h).sp = ⟨s.sp.val - 1, by omega⟩ := rfl
@[simp] theorem dt_pop (s : State) (h : 0 < s.sp.val) : (s.pop h).dt = s.dt := rfl
@[simp] theorem st_pop (s : State) (h : 0 < s.sp.val) : (s.pop h).st = s.st := rfl
@[simp] theorem fb_pop (s : State) (h : 0 < s.sp.val) : (s.pop h).fb = s.fb := rfl
@[simp] theorem key_pop (s : State) (h : 0 < s.sp.val) : (s.pop h).key = s.key := rfl
@[simp] theorem prevkey_pop (s : State) (h : 0 < s.sp.val) : (s.pop h).prevkey = s.prevkey := rfl
@[simp] theorem awaitingKey_pop (s : State) (h : 0 < s.sp.val) : (s.pop h).awaitingKey = s.awaitingKey := rfl
@[simp] theorem displayDirty_pop (s : State) (h : 0 < s.sp.val) : (s.pop h).displayDirty = s.displayDirty := rfl
@[simp] theorem mem_pop (s : State) (h : 0 < s.sp.val) : (s.pop h).mem = s.mem := rfl
@[simp] theorem params_pop (s : State) (h : 0 < s.sp.val) : (s.pop h).params = s.params := rfl
@[simp] theorem rnd_pop (s : State) (h : 0 < s.sp.val) : (s.pop h).rnd = s.rnd := rfl
@[simp] theorem inputs_pop (s : State) (h : 0 < s.sp.val) : (s.pop h).inputs = s.inputs := rfl
@[simp] theorem ticks_pop (s : State) (h : 0 < s.sp.val) : (s.pop h).ticks = s.ticks := rfl
@[simp] theorem readV_pop (s : State) (h : 0 < s.sp.val) (r : RegIdx) : (s.pop h).readV r = s.readV r := rfl
@[simp] theorem pixel_pop (s : State) (h : 0 < s.sp.val) (row : Fin 32) (col : Fin 64) : (s.pop h).pixel row col = s.pixel row col := rfl
@[simp] theorem byteAt_pop (s : State) (h : 0 < s.sp.val) (addr : Nat) : (s.pop h).byteAt addr = s.byteAt addr := rfl

/-! ### setResultThenFlag -/

@[simp] theorem v_setResultThenFlag (s : State) (x : RegIdx) (a b : Byte) : (s.setResultThenFlag x a b).v = (s.v.set x.val a).set vf.val b := rfl
@[simp] theorem index_setResultThenFlag (s : State) (x : RegIdx) (a b : Byte) : (s.setResultThenFlag x a b).index = s.index := rfl
@[simp] theorem pc_setResultThenFlag (s : State) (x : RegIdx) (a b : Byte) : (s.setResultThenFlag x a b).pc = s.pc := rfl
@[simp] theorem stack_setResultThenFlag (s : State) (x : RegIdx) (a b : Byte) : (s.setResultThenFlag x a b).stack = s.stack := rfl
@[simp] theorem sp_setResultThenFlag (s : State) (x : RegIdx) (a b : Byte) : (s.setResultThenFlag x a b).sp = s.sp := rfl
@[simp] theorem dt_setResultThenFlag (s : State) (x : RegIdx) (a b : Byte) : (s.setResultThenFlag x a b).dt = s.dt := rfl
@[simp] theorem st_setResultThenFlag (s : State) (x : RegIdx) (a b : Byte) : (s.setResultThenFlag x a b).st = s.st := rfl
@[simp] theorem fb_setResultThenFlag (s : State) (x : RegIdx) (a b : Byte) : (s.setResultThenFlag x a b).fb = s.fb := rfl
@[simp] theorem key_setResultThenFlag (s : State) (x : RegIdx) (a b : Byte) : (s.setResultThenFlag x a b).key = s.key := rfl
@[simp] theorem prevkey_setResultThenFlag (s : State) (x : RegIdx) (a b : Byte) : (s.setResultThenFlag x a b).prevkey = s.prevkey := rfl
@[simp] theorem awaitingKey_setResultThenFlag (s : State) (x : RegIdx) (a b : Byte) : (s.setResultThenFlag x a b).awaitingKey = s.awaitingKey := rfl
@[simp] theorem displayDirty_setResultThenFlag (s : State) (x : RegIdx) (a b : Byte) : (s.setResultThenFlag x a b).displayDirty = s.displayDirty := rfl
@[simp] theorem mem_setResultThenFlag (s : State) (x : RegIdx) (a b : Byte) : (s.setResultThenFlag x a b).mem = s.mem := rfl
@[simp] theorem params_setResultThenFlag (s : State) (x : RegIdx) (a b : Byte) : (s.setResultThenFlag x a b).params = s.params := rfl
@[simp] theorem rnd_setResultThenFlag (s : State) (x : RegIdx) (a b : Byte) : (s.setResultThenFlag x a b).rnd = s.rnd := rfl
@[simp] theorem inputs_setResultThenFlag (s : State) (x : RegIdx) (a b : Byte) : (s.setResultThenFlag x a b).inputs = s.inputs := rfl
@[simp] theorem ticks_setResultThenFlag (s : State) (x : RegIdx) (a b : Byte) : (s.setResultThenFlag x a b).ticks = s.ticks := rfl
@[simp] theorem pixel_setResultThenFlag (s : State) (x : RegIdx) (a b : Byte) (row : Fin 32) (col : Fin 64) : (s.setResultThenFlag x a b).pixel row col = s.pixel row col := rfl
@[simp] theorem byteAt_setResultThenFlag (s : State) (x : RegIdx) (a b : Byte) (addr : Nat) : (s.setResultThenFlag x a b).byteAt addr = s.byteAt addr := rfl

/-! ### stayWaiting -/

@[simp] theorem v_stayWaiting (s : State) : s.stayWaiting.v = s.v := rfl
@[simp] theorem index_stayWaiting (s : State) : s.stayWaiting.index = s.index := rfl
@[simp] theorem pc_stayWaiting (s : State) : s.stayWaiting.pc = s.pc - 2#16 := rfl
@[simp] theorem stack_stayWaiting (s : State) : s.stayWaiting.stack = s.stack := rfl
@[simp] theorem sp_stayWaiting (s : State) : s.stayWaiting.sp = s.sp := rfl
@[simp] theorem dt_stayWaiting (s : State) : s.stayWaiting.dt = s.dt := rfl
@[simp] theorem st_stayWaiting (s : State) : s.stayWaiting.st = s.st := rfl
@[simp] theorem fb_stayWaiting (s : State) : s.stayWaiting.fb = s.fb := rfl
@[simp] theorem key_stayWaiting (s : State) : s.stayWaiting.key = s.key := rfl
@[simp] theorem prevkey_stayWaiting (s : State) : s.stayWaiting.prevkey = s.key := rfl
@[simp] theorem awaitingKey_stayWaiting (s : State) : s.stayWaiting.awaitingKey = s.awaitingKey := rfl
@[simp] theorem displayDirty_stayWaiting (s : State) : s.stayWaiting.displayDirty = s.displayDirty := rfl
@[simp] theorem mem_stayWaiting (s : State) : s.stayWaiting.mem = s.mem := rfl
@[simp] theorem params_stayWaiting (s : State) : s.stayWaiting.params = s.params := rfl
@[simp] theorem rnd_stayWaiting (s : State) : s.stayWaiting.rnd = s.rnd := rfl
@[simp] theorem inputs_stayWaiting (s : State) : s.stayWaiting.inputs = s.inputs := rfl
@[simp] theorem ticks_stayWaiting (s : State) : s.stayWaiting.ticks = s.ticks := rfl
@[simp] theorem readV_stayWaiting (s : State) (r : RegIdx) : s.stayWaiting.readV r = s.readV r := rfl
@[simp] theorem pixel_stayWaiting (s : State) (row : Fin 32) (col : Fin 64) : s.stayWaiting.pixel row col = s.pixel row col := rfl
@[simp] theorem byteAt_stayWaiting (s : State) (addr : Nat) : s.stayWaiting.byteAt addr = s.byteAt addr := rfl

/-! ### enterWait -/

@[simp] theorem v_enterWait (s : State) : s.enterWait.v = s.v := rfl
@[simp] theorem index_enterWait (s : State) : s.enterWait.index = s.index := rfl
@[simp] theorem pc_enterWait (s : State) : s.enterWait.pc = s.pc - 2#16 := rfl
@[simp] theorem stack_enterWait (s : State) : s.enterWait.stack = s.stack := rfl
@[simp] theorem sp_enterWait (s : State) : s.enterWait.sp = s.sp := rfl
@[simp] theorem dt_enterWait (s : State) : s.enterWait.dt = s.dt := rfl
@[simp] theorem st_enterWait (s : State) : s.enterWait.st = s.st := rfl
@[simp] theorem fb_enterWait (s : State) : s.enterWait.fb = s.fb := rfl
@[simp] theorem key_enterWait (s : State) : s.enterWait.key = s.key := rfl
@[simp] theorem prevkey_enterWait (s : State) : s.enterWait.prevkey = s.key := rfl
@[simp] theorem awaitingKey_enterWait (s : State) : s.enterWait.awaitingKey = true := rfl
@[simp] theorem displayDirty_enterWait (s : State) : s.enterWait.displayDirty = s.displayDirty := rfl
@[simp] theorem mem_enterWait (s : State) : s.enterWait.mem = s.mem := rfl
@[simp] theorem params_enterWait (s : State) : s.enterWait.params = s.params := rfl
@[simp] theorem rnd_enterWait (s : State) : s.enterWait.rnd = s.rnd := rfl
@[simp] theorem inputs_enterWait (s : State) : s.enterWait.inputs = s.inputs := rfl
@[simp] theorem ticks_enterWait (s : State) : s.enterWait.ticks = s.ticks := rfl
@[simp] theorem readV_enterWait (s : State) (r : RegIdx) : s.enterWait.readV r = s.readV r := rfl
@[simp] theorem pixel_enterWait (s : State) (row : Fin 32) (col : Fin 64) : s.enterWait.pixel row col = s.pixel row col := rfl
@[simp] theorem byteAt_enterWait (s : State) (addr : Nat) : s.enterWait.byteAt addr = s.byteAt addr := rfl

/-! ### sampled -/

@[simp] theorem v_sampled (s : State) : s.sampled.v = s.v := rfl
@[simp] theorem index_sampled (s : State) : s.sampled.index = s.index := rfl
@[simp] theorem pc_sampled (s : State) : s.sampled.pc = s.pc := rfl
@[simp] theorem stack_sampled (s : State) : s.sampled.stack = s.stack := rfl
@[simp] theorem sp_sampled (s : State) : s.sampled.sp = s.sp := rfl
@[simp] theorem dt_sampled (s : State) : s.sampled.dt = s.dt := rfl
@[simp] theorem st_sampled (s : State) : s.sampled.st = s.st := rfl
@[simp] theorem fb_sampled (s : State) : s.sampled.fb = s.fb := rfl
@[simp] theorem key_sampled (s : State) : s.sampled.key = s.nextInput.keys := rfl
@[simp] theorem prevkey_sampled (s : State) : s.sampled.prevkey = s.prevkey := rfl
@[simp] theorem awaitingKey_sampled (s : State) : s.sampled.awaitingKey = s.awaitingKey := rfl
@[simp] theorem displayDirty_sampled (s : State) : s.sampled.displayDirty = (s.displayDirty && !s.nextInput.redrawn) := rfl
@[simp] theorem mem_sampled (s : State) : s.sampled.mem = s.mem := rfl
@[simp] theorem params_sampled (s : State) : s.sampled.params = s.params := rfl
@[simp] theorem rnd_sampled (s : State) : s.sampled.rnd = s.nextInput.rnd := rfl
@[simp] theorem inputs_sampled (s : State) : s.sampled.inputs = s.inputs.tail := rfl
@[simp] theorem ticks_sampled (s : State) : s.sampled.ticks = s.ticks + 1 := rfl
@[simp] theorem readV_sampled (s : State) (r : RegIdx) : s.sampled.readV r = s.readV r := rfl
@[simp] theorem pixel_sampled (s : State) (row : Fin 32) (col : Fin 64) : s.sampled.pixel row col = s.pixel row col := rfl
@[simp] theorem byteAt_sampled (s : State) (addr : Nat) : s.sampled.byteAt addr = s.byteAt addr := rfl

/-! ### advancePc -/

@[simp] theorem v_advancePc (s : State) : s.advancePc.v = s.v := rfl
@[simp] theorem index_advancePc (s : State) : s.advancePc.index = s.index := rfl
@[simp] theorem pc_advancePc (s : State) : s.advancePc.pc = s.pc + 2#16 := rfl
@[simp] theorem stack_advancePc (s : State) : s.advancePc.stack = s.stack := rfl
@[simp] theorem sp_advancePc (s : State) : s.advancePc.sp = s.sp := rfl
@[simp] theorem dt_advancePc (s : State) : s.advancePc.dt = s.dt := rfl
@[simp] theorem st_advancePc (s : State) : s.advancePc.st = s.st := rfl
@[simp] theorem fb_advancePc (s : State) : s.advancePc.fb = s.fb := rfl
@[simp] theorem key_advancePc (s : State) : s.advancePc.key = s.key := rfl
@[simp] theorem prevkey_advancePc (s : State) : s.advancePc.prevkey = s.prevkey := rfl
@[simp] theorem awaitingKey_advancePc (s : State) : s.advancePc.awaitingKey = s.awaitingKey := rfl
@[simp] theorem displayDirty_advancePc (s : State) : s.advancePc.displayDirty = s.displayDirty := rfl
@[simp] theorem mem_advancePc (s : State) : s.advancePc.mem = s.mem := rfl
@[simp] theorem params_advancePc (s : State) : s.advancePc.params = s.params := rfl
@[simp] theorem rnd_advancePc (s : State) : s.advancePc.rnd = s.rnd := rfl
@[simp] theorem inputs_advancePc (s : State) : s.advancePc.inputs = s.inputs := rfl
@[simp] theorem ticks_advancePc (s : State) : s.advancePc.ticks = s.ticks := rfl
@[simp] theorem readV_advancePc (s : State) (r : RegIdx) : s.advancePc.readV r = s.readV r := rfl
@[simp] theorem pixel_advancePc (s : State) (row : Fin 32) (col : Fin 64) : s.advancePc.pixel row col = s.pixel row col := rfl
@[simp] theorem byteAt_advancePc (s : State) (addr : Nat) : s.advancePc.byteAt addr = s.byteAt addr := rfl

/-! ### decayTimers -/

@[simp] theorem v_decayTimers (s : State) : s.decayTimers.v = s.v := rfl
@[simp] theorem index_decayTimers (s : State) : s.decayTimers.index = s.index := rfl
@[simp] theorem pc_decayTimers (s : State) : s.decayTimers.pc = s.pc := rfl
@[simp] theorem stack_decayTimers (s : State) : s.decayTimers.stack = s.stack := rfl
@[simp] theorem sp_decayTimers (s : State) : s.decayTimers.sp = s.sp := rfl
@[simp] theorem dt_decayTimers (s : State) : s.decayTimers.dt = decayed s.dt := rfl
@[simp] theorem st_decayTimers (s : State) : s.decayTimers.st = decayed s.st := rfl
@[simp] theorem fb_decayTimers (s : State) : s.decayTimers.fb = s.fb := rfl
@[simp] theorem key_decayTimers (s : State) : s.decayTimers.key = s.key := rfl
@[simp] theorem prevkey_decayTimers (s : State) : s.decayTimers.prevkey = s.prevkey := rfl
@[simp] theorem awaitingKey_decayTimers (s : State) : s.decayTimers.awaitingKey = s.awaitingKey := rfl
@[simp] theorem displayDirty_decayTimers (s : State) : s.decayTimers.displayDirty = s.displayDirty := rfl
@[simp] theorem mem_decayTimers (s : State) : s.decayTimers.mem = s.mem := rfl
@[simp] theorem params_decayTimers (s : State) : s.decayTimers.params = s.params := rfl
@[simp] theorem rnd_decayTimers (s : State) : s.decayTimers.rnd = s.rnd := rfl
@[simp] theorem inputs_decayTimers (s : State) : s.decayTimers.inputs = s.inputs := rfl
@[simp] theorem ticks_decayTimers (s : State) : s.decayTimers.ticks = s.ticks := rfl
@[simp] theorem readV_decayTimers (s : State) (r : RegIdx) : s.decayTimers.readV r = s.readV r := rfl
@[simp] theorem pixel_decayTimers (s : State) (row : Fin 32) (col : Fin 64) : s.decayTimers.pixel row col = s.pixel row col := rfl
@[simp] theorem byteAt_decayTimers (s : State) (addr : Nat) : s.decayTimers.byteAt addr = s.byteAt addr := rfl

end Sys2Proof.Machine
end

