-- ==== Sys2Proof/Laws/Ops.lean ====
section
/-! SUPPORT. One lemma for each shared operation that says once what it does: register writes, the flag order, block bounds,
the selected key, the key that resolves a wait, timer decay, the store of a register bank. -/

namespace Sys2Proof.Machine

/-! ### Registers -/

theorem readV_setV (s : State) (x r : RegIdx) (b : Byte) :
    (s.setV x b).readV r = if r = x then b else s.readV r := by
  simp only [State.readV, v_setV, Vector.getElem_set, Fin.ext_iff]
  grind

@[simp] theorem readV_setV_same (s : State) (x : RegIdx) (b : Byte) : (s.setV x b).readV x = b := by
  simp [readV_setV]

theorem readV_setV_other (s : State) {x r : RegIdx} (b : Byte) (h : r ≠ x) : (s.setV x b).readV r = s.readV r := by
  simp [readV_setV, h]

theorem readV_setBank (s : State) (w : Vector Byte 16) (r : RegIdx) : (s.setBank w).readV r = w[r.val] := rfl

/-- Two banks that read alike are the same bank. -/
theorem bank_ext {s t : State} (h : ∀ r, t.readV r = s.readV r) : t.v = s.v :=
  Vector.ext fun i hi => h ⟨i, hi⟩

/-- The flag is written last (rule R121): it stays when `VF` is also the destination. -/
theorem readV_setResultThenFlag (s : State) (x r : RegIdx) (a b : Byte) :
    (s.setResultThenFlag x a b).readV r = if r = vf then b else if r = x then a else s.readV r := by
  simp [State.setResultThenFlag, readV_setV]

theorem flagByte_eq_one {c : Bool} : flagByte c = 0x01#8 ↔ c = true := by cases c <;> decide

theorem flagByte_eq_zero {c : Bool} : flagByte c = 0x00#8 ↔ c = false := by cases c <;> decide

/-! ### Memory through the state -/

@[simp] theorem byteAt_setMem (s : State) (m : Memory) (a : Nat) : (s.setMem m).byteAt a = m.read a := rfl

theorem blockFits_iff {base : Word} {len : Nat} :
    blockFits base len = true ↔ len = 0 ∨ base.toNat + len - 1 ≤ 0x0FFF := by simp [blockFits]

@[simp] theorem length_bankUpTo (s : State) (x : RegIdx) : (s.bankUpTo x).length = x.val + 1 := by
  simp [State.bankUpTo]

theorem getElem_bankUpTo (s : State) (x : RegIdx) (j : Nat) (h : j < (s.bankUpTo x).length) :
    (s.bankUpTo x)[j] = s.readV ⟨j, by have := length_bankUpTo s x; omega⟩ := by
  simp [State.bankUpTo, State.readV]

theorem getElem_bankLoaded (s : State) (x : RegIdx) (base : Nat) (r : RegIdx) :
    (s.bankLoaded x base)[r.val] = if r.val ≤ x.val then s.byteAt (base + r.val) else s.readV r := by
  simp [State.bankLoaded]

/-! ### Keys -/

theorem lowNibble_val (b : Byte) : (lowNibble b).val = b.toNat % 16 := by
  simp [lowNibble]

theorem selectedKey_val (s : State) (x : RegIdx) : (s.selectedKey x).val = keyTested s.params.keySelect s x := by
  unfold State.selectedKey keyTested
  cases s.params.keySelect with
  | field => rfl
  | register => exact lowNibble_val (s.readV x)

theorem qualifies_iff {edge : Config.KeywaitEdge} {prev now : Keys} {k : RegIdx} :
    qualifies edge (prev.getLsbD k.val) (now.getLsbD k.val) = true ↔ KeyQualifies edge prev now k := by
  cases edge <;> simp [qualifies, KeyQualifies]

theorem firstQualifying_eq_none {edge : Config.KeywaitEdge} {prev now : Keys} {ks : List RegIdx} :
    firstQualifying edge prev now ks = none ↔ ∀ k ∈ ks, ¬KeyQualifies edge prev now k := by
  induction ks with
  | nil => simp [firstQualifying]
  | cons k ks ih =>
    unfold firstQualifying
    rw [List.forall_mem_cons, ← ih, ← qualifies_iff]
    split
    · rename_i h; simp only [h]; simp
    · rename_i h; simp only [h]; simp

theorem firstQualifying_eq_some {edge : Config.KeywaitEdge} {prev now : Keys} {ks : List RegIdx} {k : RegIdx}
    (hs : ks.Pairwise (· < ·)) (h : firstQualifying edge prev now ks = some k) :
    k ∈ ks ∧ KeyQualifies edge prev now k ∧ ∀ j ∈ ks, j < k → ¬KeyQualifies edge prev now j := by
  induction ks with
  | nil => simp [firstQualifying] at h
  | cons a ks ih =>
    rw [List.pairwise_cons] at hs
    unfold firstQualifying at h
    split at h
    · obtain rfl : a = k := Option.some.inj h
      refine ⟨List.mem_cons_self, qualifies_iff.mp ‹_›, fun j hj hlt => ?_⟩
      rcases List.mem_cons.mp hj with rfl | hj
      · exact absurd hlt (lt_irrefl _)
      · exact absurd hlt (lt_asymm (hs.1 j hj))
    · obtain ⟨h1, h2, h3⟩ := ih hs.2 h
      refine ⟨List.mem_cons_of_mem _ h1, h2, fun j hj hlt => ?_⟩
      rcases List.mem_cons.mp hj with rfl | hj
      · exact fun hq => ‹¬_› (qualifies_iff.mpr hq)
      · exact h3 j hj hlt

theorem allKeys_rising : allKeys.Pairwise (· < ·) := by decide

theorem mem_allKeys (k : RegIdx) : k ∈ allKeys := by revert k; decide

/-- The wait finds no key exactly when none qualifies. -/
theorem foundKey_eq_none {s : State} :
    s.foundKey = none ↔ ∀ k, ¬KeyQualifies s.params.keywaitEdge s.prevkey s.key k := by
  simp [State.foundKey, firstQualifying_eq_none, mem_allKeys]

/-- The wait finds the lowest qualifying key (rule R176). -/
theorem foundKey_eq_some {s : State} {k : RegIdx} (h : s.foundKey = some k) :
    KeyQualifies s.params.keywaitEdge s.prevkey s.key k ∧
      ∀ j, j < k → ¬KeyQualifies s.params.keywaitEdge s.prevkey s.key j :=
  have h' := firstQualifying_eq_some allKeys_rising h
  ⟨h'.2.1, fun j => h'.2.2 j (mem_allKeys j)⟩

/-! ### Timers -/

/-- One less while above zero, stuck at zero (rule R202). -/
theorem decayed_toNat (b : Byte) : (decayed b).toNat = b.toNat - 1 := by
  unfold decayed
  split
  · subst_vars; rfl
  · have : b.toNat ≠ 0 := fun h => ‹¬_› (BitVec.eq_of_toNat_eq h)
    rw [BitVec.toNat_sub_of_le (by simp [BitVec.le_def]; omega)]; rfl

end Sys2Proof.Machine
end

