-- ==== Sys2Proof/Laws/Display.lean ====
section
/-! SUPPORT. What drawing does, pixel by pixel (rules R160, R162, R163): one lemma for a row of a sprite and one for a sprite. -/

namespace Sys2Proof.Machine

/-- The set bits of a sprite row land on the pixel of column `p`, among the first `k` columns. -/
def RowCovers (cx : Nat) (b : Byte) (k p : Nat) : Prop := ∃ j, j < k ∧ (cx + j) % 64 = p ∧ b.getLsbD (7 - j) = true

theorem RowCovers_succ {cx : Nat} {b : Byte} {k p : Nat} :
    RowCovers cx b (k + 1) p ↔ RowCovers cx b k p ∨ ((cx + k) % 64 = p ∧ b.getLsbD (7 - k) = true) := by
  constructor
  · rintro ⟨j, hj, h⟩
    by_cases hk : j = k
    · exact .inr (hk ▸ h)
    · exact .inl ⟨j, by omega, h⟩
  · rintro (⟨j, hj, h⟩ | h)
    · exact ⟨j, by omega, h⟩
    · exact ⟨k, by omega, h⟩

theorem getLsbD_one_shift (p q : Nat) (hp : p < 64) : (1#64 <<< q).getLsbD p = decide (p = q) := by
  rw [BitVec.getLsbD_shiftLeft]
  by_cases h : p = q
  · subst h; simp [hp]
  · by_cases hq : p < q
    · simp [hq, h]
    · have : p - q ≠ 0 := by omega
      simp [BitVec.getLsbD_one, this, h]

/-- After the first `k` columns of a row: the pixels flipped, and whether one of them was ON. -/
theorem drawColumns_spec (cx : Nat) (b : Byte) (row : Row) (k : Nat) (hk : k ≤ 8) :
    (∀ p, p < 64 → (((List.range k).foldl (drawColumn cx b) (row, false)).1.getLsbD p ≠ row.getLsbD p ↔
      RowCovers cx b k p)) ∧
    (((List.range k).foldl (drawColumn cx b) (row, false)).2 = true ↔
      ∃ p, p < 64 ∧ RowCovers cx b k p ∧ row.getLsbD p = true) := by
  induction k with
  | zero => simp [RowCovers]
  | succ k ih =>
    obtain ⟨ih1, ih2⟩ := ih (by omega)
    rw [List.range_succ, List.foldl_append, List.foldl_cons, List.foldl_nil]
    generalize (List.range k).foldl (drawColumn cx b) (row, false) = acc at ih1 ih2
    have hq : (cx + k) % 64 < 64 := Nat.mod_lt _ (by decide)
    have hfresh : ¬RowCovers cx b k ((cx + k) % 64) := by
      rintro ⟨j, hj, h, -⟩; omega
    have hsame : acc.1.getLsbD ((cx + k) % 64) = row.getLsbD ((cx + k) % 64) := by
      by_contra h; exact hfresh ((ih1 _ hq).mp h)
    unfold drawColumn
    split
    · rename_i hb
      refine ⟨fun p hp => ?_, ?_⟩
      · rw [RowCovers_succ, ← ih1 p hp, BitVec.getLsbD_xor, getLsbD_one_shift p _ hp]
        by_cases h : p = (cx + k) % 64
        · subst h; simp [hb, hsame]
        · simp [h, Ne.symm h]
      · rw [Bool.or_eq_true, ih2, hsame]
        constructor
        · rintro (⟨p, hp, hc, hr⟩ | h)
          · exact ⟨p, hp, RowCovers_succ.mpr (.inl hc), hr⟩
          · exact ⟨_, hq, RowCovers_succ.mpr (.inr ⟨rfl, hb⟩), h⟩
        · rintro ⟨p, hp, hc, hr⟩
          rcases RowCovers_succ.mp hc with hc | ⟨rfl, -⟩
          · exact .inl ⟨p, hp, hc, hr⟩
          · exact .inr hr
    · rename_i hb
      have hs : ∀ p, RowCovers cx b (k + 1) p ↔ RowCovers cx b k p := fun p => by simp [RowCovers_succ, hb]
      simp only [hs]
      exact ⟨ih1, ih2⟩

/-- One row of a sprite: exactly the covered pixels flip, and a hit is a covered pixel that was ON. -/
theorem drawRow_spec (cx : Nat) (b : Byte) (row : Row) :
    (∀ p, p < 64 → ((drawRow cx b row).1.getLsbD p ≠ row.getLsbD p ↔ RowCovers cx b 8 p)) ∧
    ((drawRow cx b row).2 = true ↔ ∃ p, p < 64 ∧ RowCovers cx b 8 p ∧ row.getLsbD p = true) :=
  drawColumns_spec cx b row 8 (le_refl 8)

/-- The rows `bs` of a sprite, the first at screen row `cy`, cover the pixel in row `r` and column `p`. -/
def RowsCover (cx cy : Nat) (bs : List Byte) (r p : Nat) : Prop :=
  ∃ i, ∃ h : i < bs.length, (cy + i) % 32 = r ∧ RowCovers cx bs[i] 8 p

theorem RowsCover_cons {cx cy : Nat} {b : Byte} {bs : List Byte} {r p : Nat} :
    RowsCover cx cy (b :: bs) r p ↔ (cy % 32 = r ∧ RowCovers cx b 8 p) ∨ RowsCover cx (cy + 1) bs r p := by
  constructor
  · rintro ⟨i, hi, hr, hc⟩
    cases i with
    | zero => exact .inl ⟨hr, hc⟩
    | succ i =>
      exact .inr ⟨i, by simpa using hi, by rw [← hr]; congr 1; omega, hc⟩
  · rintro (⟨hr, hc⟩ | ⟨i, hi, hr, hc⟩)
    · exact ⟨0, by simp, hr, hc⟩
    · exact ⟨i + 1, by simpa using hi, by rw [← hr]; congr 1; omega, by simpa using hc⟩

/-- A whole sprite of at most 32 rows: exactly the covered pixels flip, and a hit is a covered pixel that was ON before the
draw, added to the hit so far. -/
theorem drawSprite_spec (cx cy : Nat) (bs : List Byte) (fb : Vector Row 32) (hit : Bool) (hlen : bs.length ≤ 32) :
    (∀ r p, ∀ hr : r < 32, p < 64 →
      ((drawSprite cx cy bs (fb, hit)).1[r].getLsbD p ≠ fb[r].getLsbD p ↔ RowsCover cx cy bs r p)) ∧
    ((drawSprite cx cy bs (fb, hit)).2 = true ↔
      hit = true ∨ ∃ r p, ∃ hr : r < 32, p < 64 ∧ RowsCover cx cy bs r p ∧ fb[r].getLsbD p = true) := by
  induction bs generalizing cy fb hit with
  | nil => simp [drawSprite, RowsCover]
  | cons b bs ih =>
    have hcy : cy % 32 < 32 := Nat.mod_lt _ (by decide)
    simp only [List.length_cons] at hlen
    unfold drawSprite
    dsimp only
    obtain ⟨row1, row2⟩ := drawRow_spec cx b fb[cy % 32]
    obtain ⟨ih1, ih2⟩ := ih (cy + 1) (fb.set (cy % 32) (drawRow cx b fb[cy % 32]).1)
      (hit || (drawRow cx b fb[cy % 32]).2) (by omega)
    have hother : ∀ p, ¬RowsCover cx (cy + 1) bs (cy % 32) p := by
      rintro p ⟨i, hi, hr, -⟩; omega
    refine ⟨fun r p hr hp => ?_, ?_⟩
    · by_cases h : r = cy % 32
      · subst h
        have e1 := not_congr (ih1 _ p hcy hp)
        rw [iff_true_right (hother p), not_not, Vector.getElem_set_self] at e1
        rw [e1, row1 p hp, RowsCover_cons]
        simp [hother p]
      · have e1 := ih1 r p hr hp
        rw [Vector.getElem_set_ne _ _ (Ne.symm h)] at e1
        rw [e1, RowsCover_cons]
        simp [Ne.symm h]
    · rw [ih2, Bool.or_eq_true, row2]
      constructor
      · rintro ((h | ⟨p, hp, hc, hon⟩) | ⟨r, p, hr, hp, hc, hon⟩)
        · exact .inl h
        · exact .inr ⟨_, p, hcy, hp, RowsCover_cons.mpr (.inl ⟨rfl, hc⟩), hon⟩
        · have hne : cy % 32 ≠ r := by rintro rfl; exact hother p hc
          rw [Vector.getElem_set_ne _ _ hne] at hon
          exact .inr ⟨r, p, hr, hp, RowsCover_cons.mpr (.inr hc), hon⟩
      · rintro (h | ⟨r, p, hr, hp, hc, hon⟩)
        · exact .inl (.inl h)
        · rcases RowsCover_cons.mp hc with ⟨rfl, hrow⟩ | hc
          · exact .inl (.inr ⟨p, hp, hrow, hon⟩)
          · have hne : cy % 32 ≠ r := by rintro rfl; exact hother p hc
            exact .inr ⟨r, p, hr, hp, hc, by rw [Vector.getElem_set_ne _ _ hne]; exact hon⟩

/-- The sprite that `Dxyn` draws covers exactly the pixels of rule R162. -/
theorem RowsCover_sprite {s : State} {x y : RegIdx} {n : Nibble} {r : Fin 32} {c : Fin 64} :
    RowsCover ((s.readV x).toNat % 64) ((s.readV y).toNat % 32) (s.mem.readBytes s.index.toNat n.toNat) r.val c.val ↔
      SpriteCovers s x y n r c := by
  constructor
  · rintro ⟨i, hi, hr, j, hj, hc, hb⟩
    rw [Memory.getElem_readBytes] at hb
    exact ⟨i, j, by simpa using hi, hj, hr, hc, hb⟩
  · rintro ⟨i, j, hi, hj, hr, hc, hb⟩
    refine ⟨i, by simpa using hi, hr, j, hj, hc, ?_⟩
    rw [Memory.getElem_readBytes]
    exact hb

/-- What a draw leaves on the screen and reports: exactly the covered pixels flip, and the collision is a covered pixel that was
ON (rules R162, R163). -/
theorem drawn_spec (s : State) (x y : RegIdx) (n : Nibble) :
    (∀ r c, (s.drawn x y n).1[r.val].getLsbD c.val ≠ s.pixel r c ↔ SpriteCovers s x y n r c) ∧
    ((s.drawn x y n).2 = true ↔ ∃ r c, SpriteCovers s x y n r c ∧ s.pixel r c = true) := by
  have h := drawSprite_spec ((s.readV x).toNat % 64) ((s.readV y).toNat % 32)
    (s.mem.readBytes s.index.toNat n.toNat) s.fb false (by simp; omega)
  refine ⟨fun r c => ?_, ?_⟩
  · rw [← RowsCover_sprite]; exact h.1 r.val c.val r.2 c.2
  · rw [State.drawn, h.2]
    simp only [Bool.false_eq_true, false_or]
    constructor
    · rintro ⟨r, p, hr, hp, h3, h4⟩
      exact ⟨⟨r, hr⟩, ⟨p, hp⟩, RowsCover_sprite.1 h3, h4⟩
    · rintro ⟨r, c, h3, h4⟩
      exact ⟨r.val, c.val, r.2, c.2, RowsCover_sprite.2 h3, h4⟩

end Sys2Proof.Machine
end

