-- ==== Sys2Proof/Laws/Exec.lean ====
section
/-! SUPPORT. Everything `exec` can do, said once: it completes, or it raises one of the three data-dependent faults with the state
as it found it. -/

namespace Sys2Proof.Machine

/-- The forms and states in which a handler raises `OutOfBounds` (rules R48, R193). -/
def AccessPastEnd (i : Instr) (s : State) : Prop :=
  (∃ x y n, i = .drw x y n ∧ 1 ≤ n.toNat ∧ 0x0FFF < s.index.toNat + n.toNat - 1) ∨
  (∃ x, i = .ldB x ∧ 0x0FFF < s.index.toNat + 2) ∨
  (∃ x, (i = .storeRegs x ∨ i = .loadRegs x) ∧ 0x0FFF < s.index.toNat + x.val)

/-- The outcomes of `exec`. -/
theorem exec_cases (i : Instr) (s : State) :
    (∃ t, exec i s = .next t) ∨
    (i = .ret ∧ s.sp.val = 0 ∧ exec i s = .fault (.stackUnderflow s)) ∨
    ((∃ nnn, i = .call nnn) ∧ s.sp.val = 16 ∧ exec i s = .fault (.stackOverflow s)) ∨
    (AccessPastEnd i s ∧ exec i s = .fault (.outOfBoundsData s)) := by
  cases i <;> try (exact .inl ⟨_, rfl⟩)
  case ret =>
    by_cases h : 0 < s.sp.val
    · exact .inl ⟨_, dif_pos h⟩
    · exact .inr (.inl ⟨rfl, by omega, dif_neg h⟩)
  case call nnn =>
    by_cases h : s.sp.val < 16
    · exact .inl ⟨_, dif_pos h⟩
    · exact .inr (.inr (.inl ⟨⟨nnn, rfl⟩, by omega, dif_neg h⟩))
  case drw x y n =>
    by_cases h : blockFits s.index n.toNat
    · exact .inl ⟨_, if_pos h⟩
    · exact .inr (.inr (.inr ⟨.inl ⟨x, y, n, rfl, by rw [blockFits_iff] at h; omega⟩, if_neg h⟩))
  case ldB x =>
    by_cases h : blockFits s.index 3
    · exact .inl ⟨_, if_pos h⟩
    · exact .inr (.inr (.inr ⟨.inr (.inl ⟨x, rfl, by rw [blockFits_iff] at h; omega⟩), if_neg h⟩))
  case storeRegs x =>
    by_cases h : blockFits s.index (x.val + 1)
    · exact .inl ⟨_, if_pos h⟩
    · exact .inr (.inr (.inr ⟨.inr (.inr ⟨x, .inl rfl, by rw [blockFits_iff] at h; omega⟩), if_neg h⟩))
  case loadRegs x =>
    by_cases h : blockFits s.index (x.val + 1)
    · exact .inl ⟨_, if_pos h⟩
    · exact .inr (.inr (.inr ⟨.inr (.inr ⟨x, .inr rfl, by rw [blockFits_iff] at h; omega⟩), if_neg h⟩))

/-- A handler that faults leaves the state it started from. -/
theorem exec_fault_final {i : Instr} {s : State} {f : Fault} (h : exec i s = .fault f) : f.final = s := by
  rcases exec_cases i s with ⟨t, h'⟩ | ⟨-, -, h'⟩ | ⟨-, -, h'⟩ | ⟨-, h'⟩ <;> rw [h'] at h <;> cases h <;> rfl

end Sys2Proof.Machine
end

