-- ==== Sys2Proof/Laws/Loader.lean ====
section
/-! SUPPORT. What the parameters `FONT` and `ROM_MAX_LEN` of rule R5 admit, and what reset with parameters and the program load do
(rules R220, R225, R226). -/

namespace Sys2Proof.Machine

/-- The font of any machine ends at `FONT_END` = 0x09F (rule R4). -/
theorem length_font (font : Config.Font) : Config.fontBase + font.bytes.length = 0x0A0 := by
  rw [font.size]
  rfl

/-- The launch premise as a fact about lengths. -/
theorem loadable_iff (m : Config.RomMaxLen) (p : List Byte) :
    loadable m p = true ↔ p.length ≤ m.bytes ∧ p.length % 2 = 0 := by
  simp [loadable]

/-- Every image that a machine admits fits between 0x200 and the end of memory, so a load drops no byte. -/
theorem loadable_fits {m : Config.RomMaxLen} {p : List Byte} (h : loadable m p = true) :
    Config.progBase + p.length ≤ Config.memSize := by
  have := m.bounded
  have := (loadable_iff m p).mp h
  simp only [Config.progBase, Config.memSize]
  omega

/-- Everything a load can do: it writes an admitted image into memory. -/
theorem load_eq_some {s t : State} {p : List Byte} :
    s.load p = some t ↔
      loadable s.params.romMaxLen p = true ∧ t = s.setMem (s.mem.storeBytes Config.progBase p) := by
  unfold State.load
  split
  · next h => rw [Option.some.injEq, eq_comm, and_iff_right h]
  · next h => exact ⟨fun h' => (Option.some_ne_none t h'.symm).elim, fun h' => absurd h'.1 h⟩

/-- Reset memory of any machine is in canonical form. -/
theorem wf_resetWith (params : Config.Params) : (State.resetWith params).mem.wf = true :=
  Memory.wf_storeBytes _ _ Memory.wf_nil

@[simp] theorem params_resetWith (params : Config.Params) : (State.resetWith params).params = params := rfl

end Sys2Proof.Machine
end

