-- ==== Sys2Proof/Laws/PerInstr.lean ====
section
/-! SUPPORT. Statements made per instruction (LAWS.json). EncodesOwnRow: the word an instruction encodes to is selected by that
instruction's own row of the table of rule R64. -/

namespace Sys2Proof.Laws.EncodesOwnRow

/-- The encoding of `i` passes the mask and match test of the row `i` belongs to (rule R64). -/
def Statement (i : Instr) : Prop :=
  ∀ r : OpcodeRow, opcodeTable[i.row - 1]? = some r → r.row = i.row ∧ r.selects (encode i) = true

theorem nop : Statement (.nop) := by
  intro r hr; obtain rfl : _ = r := Option.some.inj hr; exact ⟨rfl, rfl⟩

theorem cls : Statement (.cls) := by
  intro r hr; obtain rfl : _ = r := Option.some.inj hr; exact ⟨rfl, rfl⟩

theorem ret : Statement (.ret) := by
  intro r hr; obtain rfl : _ = r := Option.some.inj hr; exact ⟨rfl, rfl⟩

theorem sys (nnn : Addr12) : Statement (.sys nnn) := by
  intro r hr; obtain rfl : _ = r := Option.some.inj hr
  exact ⟨rfl, beq_iff_eq.mpr (mask_family_nnn 0x0#4 nnn)⟩

theorem jp (nnn : Addr12) : Statement (.jp nnn) := by
  intro r hr; obtain rfl : _ = r := Option.some.inj hr
  exact ⟨rfl, beq_iff_eq.mpr (mask_family_nnn 0x1#4 nnn)⟩

theorem call (nnn : Addr12) : Statement (.call nnn) := by
  intro r hr; obtain rfl : _ = r := Option.some.inj hr
  exact ⟨rfl, beq_iff_eq.mpr (mask_family_nnn 0x2#4 nnn)⟩

theorem seKk (x : RegIdx) (kk : Byte) : Statement (.seKk x kk) := by
  intro r hr; obtain rfl : _ = r := Option.some.inj hr
  exact ⟨rfl, beq_iff_eq.mpr (mask_family_x_kk 0x3#4 x kk)⟩

theorem sneKk (x : RegIdx) (kk : Byte) : Statement (.sneKk x kk) := by
  intro r hr; obtain rfl : _ = r := Option.some.inj hr
  exact ⟨rfl, beq_iff_eq.mpr (mask_family_x_kk 0x4#4 x kk)⟩

theorem seVy (x y : RegIdx) : Statement (.seVy x y) := by
  intro r hr; obtain rfl : _ = r := Option.some.inj hr
  exact ⟨rfl, beq_iff_eq.mpr (mask_family_x_y_n 0x5#4 x y 0x0#4)⟩

theorem ldKk (x : RegIdx) (kk : Byte) : Statement (.ldKk x kk) := by
  intro r hr; obtain rfl : _ = r := Option.some.inj hr
  exact ⟨rfl, beq_iff_eq.mpr (mask_family_x_kk 0x6#4 x kk)⟩

theorem addKk (x : RegIdx) (kk : Byte) : Statement (.addKk x kk) := by
  intro r hr; obtain rfl : _ = r := Option.some.inj hr
  exact ⟨rfl, beq_iff_eq.mpr (mask_family_x_kk 0x7#4 x kk)⟩

theorem ldVy (x y : RegIdx) : Statement (.ldVy x y) := by
  intro r hr; obtain rfl : _ = r := Option.some.inj hr
  exact ⟨rfl, beq_iff_eq.mpr (mask_family_x_y_n 0x8#4 x y 0x0#4)⟩

theorem orVy (x y : RegIdx) : Statement (.orVy x y) := by
  intro r hr; obtain rfl : _ = r := Option.some.inj hr
  exact ⟨rfl, beq_iff_eq.mpr (mask_family_x_y_n 0x8#4 x y 0x1#4)⟩

theorem andVy (x y : RegIdx) : Statement (.andVy x y) := by
  intro r hr; obtain rfl : _ = r := Option.some.inj hr
  exact ⟨rfl, beq_iff_eq.mpr (mask_family_x_y_n 0x8#4 x y 0x2#4)⟩

theorem xorVy (x y : RegIdx) : Statement (.xorVy x y) := by
  intro r hr; obtain rfl : _ = r := Option.some.inj hr
  exact ⟨rfl, beq_iff_eq.mpr (mask_family_x_y_n 0x8#4 x y 0x3#4)⟩

theorem addVy (x y : RegIdx) : Statement (.addVy x y) := by
  intro r hr; obtain rfl : _ = r := Option.some.inj hr
  exact ⟨rfl, beq_iff_eq.mpr (mask_family_x_y_n 0x8#4 x y 0x4#4)⟩

theorem subVy (x y : RegIdx) : Statement (.subVy x y) := by
  intro r hr; obtain rfl : _ = r := Option.some.inj hr
  exact ⟨rfl, beq_iff_eq.mpr (mask_family_x_y_n 0x8#4 x y 0x5#4)⟩

theorem shr (x y : RegIdx) : Statement (.shr x y) := by
  intro r hr; obtain rfl : _ = r := Option.some.inj hr
  exact ⟨rfl, beq_iff_eq.mpr (mask_family_x_y_n 0x8#4 x y 0x6#4)⟩

theorem subnVy (x y : RegIdx) : Statement (.subnVy x y) := by
  intro r hr; obtain rfl : _ = r := Option.some.inj hr
  exact ⟨rfl, beq_iff_eq.mpr (mask_family_x_y_n 0x8#4 x y 0x7#4)⟩

theorem shl (x y : RegIdx) : Statement (.shl x y) := by
  intro r hr; obtain rfl : _ = r := Option.some.inj hr
  exact ⟨rfl, beq_iff_eq.mpr (mask_family_x_y_n 0x8#4 x y 0xE#4)⟩

theorem sneVy (x y : RegIdx) : Statement (.sneVy x y) := by
  intro r hr; obtain rfl : _ = r := Option.some.inj hr
  exact ⟨rfl, beq_iff_eq.mpr (mask_family_x_y_n 0x9#4 x y 0x0#4)⟩

theorem ldI (nnn : Addr12) : Statement (.ldI nnn) := by
  intro r hr; obtain rfl : _ = r := Option.some.inj hr
  exact ⟨rfl, beq_iff_eq.mpr (mask_family_nnn 0xA#4 nnn)⟩

theorem jpV0 (nnn : Addr12) : Statement (.jpV0 nnn) := by
  intro r hr; obtain rfl : _ = r := Option.some.inj hr
  exact ⟨rfl, beq_iff_eq.mpr (mask_family_nnn 0xB#4 nnn)⟩

theorem rnd (x : RegIdx) (kk : Byte) : Statement (.rnd x kk) := by
  intro r hr; obtain rfl : _ = r := Option.some.inj hr
  exact ⟨rfl, beq_iff_eq.mpr (mask_family_x_kk 0xC#4 x kk)⟩

theorem drw (x y : RegIdx) (n : Nibble) : Statement (.drw x y n) := by
  intro r hr; obtain rfl : _ = r := Option.some.inj hr
  exact ⟨rfl, beq_iff_eq.mpr (mask_family_x_y_count 0xD#4 x y n)⟩

theorem skp (x : RegIdx) : Statement (.skp x) := by
  intro r hr; obtain rfl : _ = r := Option.some.inj hr
  exact ⟨rfl, beq_iff_eq.mpr (mask_family_x_ss 0xE#4 x 0x9E#8)⟩

theorem sknp (x : RegIdx) : Statement (.sknp x) := by
  intro r hr; obtain rfl : _ = r := Option.some.inj hr
  exact ⟨rfl, beq_iff_eq.mpr (mask_family_x_ss 0xE#4 x 0xA1#8)⟩

theorem ldVxDt (x : RegIdx) : Statement (.ldVxDt x) := by
  intro r hr; obtain rfl : _ = r := Option.some.inj hr
  exact ⟨rfl, beq_iff_eq.mpr (mask_family_x_ss 0xF#4 x 0x07#8)⟩

theorem ldVxK (x : RegIdx) : Statement (.ldVxK x) := by
  intro r hr; obtain rfl : _ = r := Option.some.inj hr
  exact ⟨rfl, beq_iff_eq.mpr (mask_family_x_ss 0xF#4 x 0x0A#8)⟩

theorem ldDt (x : RegIdx) : Statement (.ldDt x) := by
  intro r hr; obtain rfl : _ = r := Option.some.inj hr
  exact ⟨rfl, beq_iff_eq.mpr (mask_family_x_ss 0xF#4 x 0x15#8)⟩

theorem ldSt (x : RegIdx) : Statement (.ldSt x) := by
  intro r hr; obtain rfl : _ = r := Option.some.inj hr
  exact ⟨rfl, beq_iff_eq.mpr (mask_family_x_ss 0xF#4 x 0x18#8)⟩

theorem addI (x : RegIdx) : Statement (.addI x) := by
  intro r hr; obtain rfl : _ = r := Option.some.inj hr
  exact ⟨rfl, beq_iff_eq.mpr (mask_family_x_ss 0xF#4 x 0x1E#8)⟩

theorem ldF (x : RegIdx) : Statement (.ldF x) := by
  intro r hr; obtain rfl : _ = r := Option.some.inj hr
  exact ⟨rfl, beq_iff_eq.mpr (mask_family_x_ss 0xF#4 x 0x29#8)⟩

theorem ldB (x : RegIdx) : Statement (.ldB x) := by
  intro r hr; obtain rfl : _ = r := Option.some.inj hr
  exact ⟨rfl, beq_iff_eq.mpr (mask_family_x_ss 0xF#4 x 0x33#8)⟩

theorem storeRegs (x : RegIdx) : Statement (.storeRegs x) := by
  intro r hr; obtain rfl : _ = r := Option.some.inj hr
  exact ⟨rfl, beq_iff_eq.mpr (mask_family_x_ss 0xF#4 x 0x55#8)⟩

theorem loadRegs (x : RegIdx) : Statement (.loadRegs x) := by
  intro r hr; obtain rfl : _ = r := Option.some.inj hr
  exact ⟨rfl, beq_iff_eq.mpr (mask_family_x_ss 0xF#4 x 0x65#8)⟩

end Sys2Proof.Laws.EncodesOwnRow
end

