-- ==== Sys2Proof/Laws/Step.lean ====
section
/-! SUPPORT. What a tick can do, said once: the inversion lemmas of `step` in its three outcomes, which every claim about a tick
cites instead of unfolding it. -/

namespace Sys2Proof.Machine

/-- The state before the handler, in one record (S0 and S2 of rule R80). -/
theorem advancePc_sampled (s : State) : s.sampled.advancePc = s.entered := rfl

theorem fetchWord_eq (s : State) :
    s.fetchWord = if s.pc.toNat ≤ 0x0FFE then some (s.wordAt s.pc.toNat) else none := rfl

@[simp] theorem fetchWord_sampled (s : State) : s.sampled.fetchWord = s.fetchWord := rfl

/-- Past the fetch bound (rule R82). -/
theorem step_of_no_fetch {s : State} (h : 0x0FFE < s.pc.toNat) : step s = .fault (.outOfBoundsFetch s.sampled) := by
  have hf : s.sampled.fetchWord = none := by rw [fetchWord_sampled, fetchWord_eq, if_neg (by omega)]
  rw [step, hf]; rfl

/-- Within the fetch bound the tick runs the word at `PC` (rules R83, R85). -/
theorem step_of_fetch {s : State} (h : s.pc.toNat ≤ 0x0FFE) :
    step s = runWord (s.wordAt s.pc.toNat) s.entered := by
  have hf : s.sampled.fetchWord = some (s.wordAt s.pc.toNat) := by rw [fetchWord_sampled, fetchWord_eq, if_pos h]
  rw [step, hf]; rfl

/-- The tick of a state at an instruction. -/
theorem step_at {s : State} {i : Instr} (h : s.AtInstr i) : step s = finishTick (exec i s.entered) := by
  rw [step_of_fetch h.1, runWord, h.2]

/-- The tick of a state at an illegal word. -/
theorem step_illegal {s : State} {e : DecodeError} (h : s.pc.toNat ≤ 0x0FFE)
    (he : decodeWord (s.wordAt s.pc.toNat) = .error e) : step s = .fault (.illegalInstruction s.entered) := by
  rw [step_of_fetch h, runWord, he]; rfl

/-- Everything a tick can do: a fetch fault, an illegal word, or the instruction at `PC`. -/
theorem step_cases (s : State) :
    (0x0FFE < s.pc.toNat ∧ step s = .fault (.outOfBoundsFetch s.sampled)) ∨
    (s.pc.toNat ≤ 0x0FFE ∧ (∃ e, decodeWord (s.wordAt s.pc.toNat) = .error e) ∧
      step s = .fault (.illegalInstruction s.entered)) ∨
    (∃ i, s.AtInstr i ∧ step s = finishTick (exec i s.entered)) := by
  by_cases h : s.pc.toNat ≤ 0x0FFE
  · cases hd : decodeWord (s.wordAt s.pc.toNat) with
    | error e => exact .inr (.inl ⟨h, ⟨e, rfl⟩, step_illegal h hd⟩)
    | ok i => exact .inr (.inr ⟨i, ⟨h, hd⟩, step_at ⟨h, hd⟩⟩)
  · exact .inl ⟨by omega, step_of_no_fetch (by omega)⟩

/-- A state is at one instruction only. -/
theorem AtInstr_unique {s : State} {i j : Instr} (hi : s.AtInstr i) (hj : s.AtInstr j) : i = j := by
  have := hi.2.symm.trans hj.2; exact Except.ok.inj this

/-- A successful tick completed the handler of the instruction at `PC` and then decayed the timers. -/
theorem step_next {s t : State} (h : step s = .next t) :
    ∃ i u, s.AtInstr i ∧ exec i s.entered = .next u ∧ t = u.decayTimers := by
  rcases step_cases s with ⟨-, h'⟩ | ⟨-, -, h'⟩ | ⟨i, hi, h'⟩
  · simp [h] at h'
  · simp [h] at h'
  · rw [h] at h'
    cases he : exec i s.entered with
    | next u => rw [he] at h'; exact ⟨i, u, hi, he, Host.Outcome.next.inj h'⟩
    | fault f => rw [he] at h'; simp [finishTick] at h'
    | refused r => rw [he] at h'; simp [finishTick] at h'

/-- A tick that faults did so at the fetch, on an illegal word, or in the handler of the instruction at `PC`. -/
theorem step_fault {s : State} {f : Fault} (h : step s = .fault f) :
    (0x0FFE < s.pc.toNat ∧ f = .outOfBoundsFetch s.sampled) ∨
    (s.pc.toNat ≤ 0x0FFE ∧ (∃ e, decodeWord (s.wordAt s.pc.toNat) = .error e) ∧ f = .illegalInstruction s.entered) ∨
    (∃ i, s.AtInstr i ∧ exec i s.entered = .fault f) := by
  rcases step_cases s with ⟨h1, h'⟩ | ⟨h1, h2, h'⟩ | ⟨i, hi, h'⟩ <;> rw [h] at h'
  · exact .inl ⟨h1, by injection h'⟩
  · exact .inr (.inl ⟨h1, h2, by injection h'⟩)
  · refine .inr (.inr ⟨i, hi, ?_⟩)
    cases he : exec i s.entered <;> simp_all [finishTick]

/-- A run of one tick more. -/
theorem run_succ (k : Nat) (s : State) :
    Sys2Proof.core.run (k + 1) s = match step s with
      | .next t => Sys2Proof.core.run k t
      | .fault f => .fault f
      | .refused r => .refused r := by
  have h : Sys2Proof.core.step s = step s := rfl
  simp only [Host.Core.run, h]
  cases step s <;> rfl

/-- Being at an instruction depends on `PC` and memory only. -/
theorem AtInstr_congr {s t : State} {i : Instr} (hp : t.pc = s.pc) (hm : t.mem = s.mem) :
    t.AtInstr i ↔ s.AtInstr i := by
  simp [State.AtInstr, State.wordAt, State.byteAt, hp, hm]

end Sys2Proof.Machine
end

