-- ==== Sys2Proof/Tests/Slice0.lean ====
section
/-! SUPPORT. The model's own tests. Expected values come from the spec: the words of spec/30_encoding.md and
spec/95_test_vectors.md section 6, and the vectors of its sections 2 to 5 (the id stands in each docstring). After the tests
come the witnesses: states that meet the hypotheses of the statements in Obligations.lean. -/

set_option maxRecDepth 8000

namespace Sys2Proof.Tests

open Sys2Proof.Machine

/-! ## Helpers -/

/-- The state with the listed registers at the listed values. -/
def regs (l : List (RegIdx × Byte)) (s : State) : State := l.foldl (fun s p => s.setV p.1 p.2) s

/-- The state with the listed bytes from an address on. -/
def bytes (a : Nat) (bs : List Byte) (s : State) : State := s.setMem (s.mem.storeBytes a bs)

/-- The state with the listed pixels flipped. -/
def flip (l : List (Fin 32 × Nat)) (s : State) : State :=
  l.foldl (fun s p => { s with fb := s.fb.set p.1.val (s.fb[p.1.val] ^^^ 1#64 <<< p.2) }) s

/-- The state with a word at its `PC` and one tick of inputs to come. -/
def at' (word : Nat) (s : State) (keys : Keys := 0) (rnd : Byte := 0) : State :=
  { s.withFetchWord 16 word with inputs := [{ redrawn := false, keys := keys, rnd := rnd }] }

/-- The state with the inputs of its tick loaded and nothing else done. -/
def loaded (s : State) : State :=
  { s with key := s.nextInput.keys, rnd := s.nextInput.rnd, inputs := s.inputs.tail, ticks := s.ticks + 1 }

/-- One tick succeeds, with `PC` as given, the changes as given and every other element of the state unchanged. -/
def ticksTo (s : State) (pc : Word) (changes : State → State) : Bool :=
  match step s with
  | .next t => t == changes { loaded s with pc := pc }
  | .fault _ => false
  | .refused _ => false

/-- One tick faults, with `PC` as given and every other element of the state unchanged. -/
def faultsTo (s : State) (fault : State → Fault) (pc : Word) : Bool :=
  match step s with
  | .next _ => false
  | .fault f => f == fault { loaded s with pc := pc }
  | .refused _ => false

/-- The next tick runs `i`, and succeeds. -/
def runs (s : State) (i : Instr) : Bool :=
  decide (s.pc.toNat ≤ 0x0FFE) && decide (decodeWord (s.wordAt s.pc.toNat) = .ok i) &&
    (match step s with
    | .next _ => true
    | .fault _ => false
    | .refused _ => false)

theorem runs_spec {s : State} {i : Instr} (h : runs s i = true) : s.AtInstr i ∧ ∃ t, step s = .next t := by
  simp only [runs, Bool.and_eq_true, decide_eq_true_eq] at h
  refine ⟨⟨h.1.1, h.1.2⟩, ?_⟩
  cases hs : step s with
  | next t => exact ⟨t, rfl⟩
  | fault f => rw [hs] at h; exact absurd h.2 (by simp)
  | refused r => rw [hs] at h; exact absurd h.2 (by simp)

/-- The reset state of a machine with `KEY_SELECT = register`. -/
def registerKeys : State := { State.reset with params := { defaultParams with keySelect := .register } }

/-- The reset state with `I` at a value. -/
def withI (i : Word) : State := { State.reset with index := i }

/-! ## Well-formedness -/

/-- The words 0000, 00E0 and 00EE belong to rows 1 to 3 (rule R65). -/
theorem test_wellFormed_refuses_sys_000 : (Instr.sys 0x000).wellFormed = false := by decide

theorem test_wellFormed_refuses_sys_0E0 : (Instr.sys 0x0E0).wellFormed = false := by decide

theorem test_wellFormed_refuses_sys_0EE : (Instr.sys 0x0EE).wellFormed = false := by decide

theorem test_wellFormed_accepts_sys_0FF : (Instr.sys 0x0FF).wellFormed = true := by decide

/-! ## Decoding: words written out from the patterns of rule R64, family by family -/

theorem test_decode_family_0 :
    decodeWord 0b0000000000000000#16 = .ok (.nop) ∧
    decodeWord 0b0000000011100000#16 = .ok (.cls) ∧
    decodeWord 0b0000000011101110#16 = .ok (.ret) ∧
    decodeWord 0b0000000100100011#16 = .ok (.sys 0x123) ∧
    decodeWord 0b0000000011111111#16 = .ok (.sys 0x0FF) := by decide

theorem test_decode_family_1_2 :
    decodeWord 0b0001101010111100#16 = .ok (.jp 0xABC) ∧
    decodeWord 0b0010001100000000#16 = .ok (.call 0x300) := by decide

theorem test_decode_family_3_4_5 :
    decodeWord 0b0011101000000101#16 = .ok (.seKk 0xA 0x05) ∧
    decodeWord 0b0100101100000110#16 = .ok (.sneKk 0xB 0x06) ∧
    decodeWord 0b0101101010110000#16 = .ok (.seVy 0xA 0xB) := by decide

theorem test_decode_family_6_7 :
    decodeWord 0b0110101000000101#16 = .ok (.ldKk 0xA 0x05) ∧
    decodeWord 0b0111001111111110#16 = .ok (.addKk 3 0xFE) := by decide

theorem test_decode_family_8 :
    decodeWord 0b1000101010110000#16 = .ok (.ldVy 0xA 0xB) ∧
    decodeWord 0b1000101010110001#16 = .ok (.orVy 0xA 0xB) ∧
    decodeWord 0b1000101010110010#16 = .ok (.andVy 0xA 0xB) ∧
    decodeWord 0b1000101010110011#16 = .ok (.xorVy 0xA 0xB) ∧
    decodeWord 0b1000101010110100#16 = .ok (.addVy 0xA 0xB) ∧
    decodeWord 0b1000101010110101#16 = .ok (.subVy 0xA 0xB) ∧
    decodeWord 0b1000101010110110#16 = .ok (.shr 0xA 0xB) ∧
    decodeWord 0b1000101010110111#16 = .ok (.subnVy 0xA 0xB) ∧
    decodeWord 0b1000101010111110#16 = .ok (.shl 0xA 0xB) := by decide

theorem test_decode_family_9_A_B_C_D :
    decodeWord 0b1001000100100000#16 = .ok (.sneVy 1 2) ∧
    decodeWord 0b1010001011110000#16 = .ok (.ldI 0x2F0) ∧
    decodeWord 0b1011001100000000#16 = .ok (.jpV0 0x300) ∧
    decodeWord 0b1100000100001111#16 = .ok (.rnd 1 0x0F) ∧
    decodeWord 0b1101000100101111#16 = .ok (.drw 1 2 0xF) := by decide

theorem test_decode_family_E :
    decodeWord 0b1110010110011110#16 = .ok (.skp 5) ∧
    decodeWord 0b1110010110100001#16 = .ok (.sknp 5) := by decide

theorem test_decode_family_F :
    decodeWord 0b1111001100000111#16 = .ok (.ldVxDt 3) ∧
    decodeWord 0b1111001100001010#16 = .ok (.ldVxK 3) ∧
    decodeWord 0b1111001100010101#16 = .ok (.ldDt 3) ∧
    decodeWord 0b1111001100011000#16 = .ok (.ldSt 3) ∧
    decodeWord 0b1111001100011110#16 = .ok (.addI 3) ∧
    decodeWord 0b1111001100101001#16 = .ok (.ldF 3) ∧
    decodeWord 0b1111001100110011#16 = .ok (.ldB 3) ∧
    decodeWord 0b1111001101010101#16 = .ok (.storeRegs 3) ∧
    decodeWord 0b1111001101100101#16 = .ok (.loadRegs 3) := by decide

/-- The illegal spot checks of spec/95_test_vectors.md section 6. -/
theorem test_decode_refuses_by_name :
    decodeWord 0x5AB1 = .error (.illegal 0x5AB1) ∧ decodeWord 0x8AB8 = .error (.illegal 0x8AB8) ∧
    decodeWord 0x8ABF = .error (.illegal 0x8ABF) ∧ decodeWord 0xE0A0 = .error (.illegal 0xE0A0) ∧
    decodeWord 0xF066 = .error (.illegal 0xF066) ∧ decodeWord 0xF075 = .error (.illegal 0xF075) ∧
    decodeWord 0xF085 = .error (.illegal 0xF085) ∧ decodeWord 0x912F = .error (.illegal 0x912F) := by decide

/-- The high byte lies at the lower address (rule R40); one byte is no instruction (rule R60). -/
theorem test_decode_bytes :
    decodeBytes [0x6A, 0x05, 0x77] = .ok (.ldKk 0xA 0x05, [0x77]) ∧ decodeBytes [0x6A] = .error .truncated := by decide

theorem test_encode :
    encode (.drw 1 2 0xF) = 0xD12F ∧ encode (.shl 1 2) = 0x812E ∧ encode (.loadRegs 2) = 0xF265 ∧
    encode (.sys 0x123) = 0x0123 ∧ encodeBytes (.ldKk 0xA 0x05) = [0x6A, 0x05] := by decide

/-! ## One tick -/

/-- Vector CF1. -/
theorem test_nop :
    ticksTo (at' 0x0000 { State.reset with dt := 0x03, st := 0x01 }) 0x0202
      ({ · with dt := 0x02, st := 0x00 }) = true := by decide

/-- Vector DS1. -/
theorem test_cls :
    ticksTo (at' 0x00E0 (flip [(0, 0), (31, 63), (5, 7)] State.reset)) 0x0202
      (fun s => { flip [(0, 0), (31, 63), (5, 7)] s with displayDirty := true }) = true := by decide

/-- Vector CF4. -/
theorem test_ret :
    ticksTo (at' 0x00EE { State.reset with sp := 1, stack := State.reset.stack.set 0 0x0206 }) 0x0206
      ({ · with sp := 0 }) = true := by decide

/-- Vector CF5. -/
theorem test_ret_empty :
    faultsTo (at' 0x00EE { State.reset with dt := 0x05 }) .stackUnderflow 0x0202 = true := by decide

/-- Vector CF2. -/
theorem test_sys :
    ticksTo (at' 0x0123 { State.reset with dt := 0x03 }) 0x0202 ({ · with dt := 0x02 }) = true := by decide

/-- Vector CF7. -/
theorem test_jp : ticksTo (at' 0x1ABC State.reset) 0x0ABC id = true := by decide

/-- Vector CF11. -/
theorem test_call :
    ticksTo (at' 0x2300 { State.reset with sp := 15, pc := 0x0400 }) 0x0300
      (fun s => { s with sp := 16, stack := s.stack.set 15 0x0402 }) = true := by decide

/-- Vector CF12. -/
theorem test_call_full :
    faultsTo (at' 0x2300 { State.reset with sp := 16, stack := Vector.replicate 16 0x0202, dt := 0x05 })
      .stackOverflow 0x0202 = true := by decide

/-- Vector CF13. -/
theorem test_seKk : ticksTo (at' 0x3A05 (regs [(0xA, 0x05)] State.reset)) 0x0204 id = true := by decide

/-- Vector CF14. -/
theorem test_seKk_not : ticksTo (at' 0x3A05 (regs [(0xA, 0x04)] State.reset)) 0x0202 id = true := by decide

/-- Vector CF16. -/
theorem test_sneKk : ticksTo (at' 0x4A05 (regs [(0xA, 0x04)] State.reset)) 0x0204 id = true := by decide

/-- Vector CF15. -/
theorem test_sneKk_not : ticksTo (at' 0x4A05 (regs [(0xA, 0x05)] State.reset)) 0x0202 id = true := by decide

/-- Vector CF17. -/
theorem test_seVy : ticksTo (at' 0x5120 (regs [(1, 0x07), (2, 0x07)] State.reset)) 0x0204 id = true := by decide

/-- Vector CF18. -/
theorem test_seVy_not : ticksTo (at' 0x5120 (regs [(1, 0x07), (2, 0x08)] State.reset)) 0x0202 id = true := by decide

/-- Vector AL2. -/
theorem test_ldKk :
    ticksTo (at' 0x6F00 (regs [(0xF, 0x77)] State.reset)) 0x0202 (regs [(0xF, 0x00)]) = true := by decide

/-- Vector AL4: the sum wraps and VF keeps its value. -/
theorem test_addKk :
    ticksTo (at' 0x7A01 (regs [(0xA, 0xFF), (0xF, 0x77)] State.reset)) 0x0202 (regs [(0xA, 0x00)]) = true := by decide

/-- Vector AL6. -/
theorem test_ldVy :
    ticksTo (at' 0x8120 (regs [(1, 0x11), (2, 0x22)] State.reset)) 0x0202 (regs [(1, 0x22)]) = true := by decide

/-- Vector AL7. -/
theorem test_orVy :
    ticksTo (at' 0x8121 (regs [(1, 0xF0), (2, 0x0F), (0xF, 0x77)] State.reset)) 0x0202
      (regs [(1, 0xFF)]) = true := by decide

/-- Vector AL8. -/
theorem test_andVy :
    ticksTo (at' 0x8122 (regs [(1, 0xF0), (2, 0x3C), (0xF, 0x77)] State.reset)) 0x0202
      (regs [(1, 0x30)]) = true := by decide

/-- Vector AL9. -/
theorem test_xorVy :
    ticksTo (at' 0x8123 (regs [(1, 0xF0), (2, 0x3C), (0xF, 0x77)] State.reset)) 0x0202
      (regs [(1, 0xCC)]) = true := by decide

/-- Vector AL11. -/
theorem test_addVy :
    ticksTo (at' 0x8124 (regs [(1, 0xFF), (2, 0x01)] State.reset)) 0x0202
      (regs [(1, 0x00), (0xF, 0x01)]) = true := by decide

/-- Vector AL15: VF is the destination and ends as the flag. -/
theorem test_addVy_vf :
    ticksTo (at' 0x8F14 (regs [(0xF, 0x10), (1, 0x20)] State.reset)) 0x0202 (regs [(0xF, 0x00)]) = true := by decide

/-- Vector AL19. -/
theorem test_subVy :
    ticksTo (at' 0x8125 (regs [(1, 0x03), (2, 0x05), (0xF, 0x01)] State.reset)) 0x0202
      (regs [(1, 0xFE), (0xF, 0x00)]) = true := by decide

/-- Vector AL20: equal operands give 0. -/
theorem test_subVy_equal :
    ticksTo (at' 0x8125 (regs [(1, 0x05), (2, 0x05), (0xF, 0x01)] State.reset)) 0x0202
      (regs [(1, 0x00), (0xF, 0x00)]) = true := by decide

/-- Vector AL24: V2 is ignored. -/
theorem test_shr :
    ticksTo (at' 0x8126 (regs [(1, 0x05), (2, 0xEE)] State.reset)) 0x0202
      (regs [(1, 0x02), (0xF, 0x01)]) = true := by decide

/-- Vector AL27. -/
theorem test_shr_vf :
    ticksTo (at' 0x8F16 (regs [(0xF, 0x03)] State.reset)) 0x0202 (regs [(0xF, 0x01)]) = true := by decide

/-- Vector AL29. -/
theorem test_subnVy :
    ticksTo (at' 0x8127 (regs [(1, 0x03), (2, 0x05)] State.reset)) 0x0202
      (regs [(1, 0x02), (0xF, 0x01)]) = true := by decide

/-- Vector AL30. -/
theorem test_subnVy_wraps :
    ticksTo (at' 0x8127 (regs [(1, 0x05), (2, 0x03), (0xF, 0x01)] State.reset)) 0x0202
      (regs [(1, 0xFE), (0xF, 0x00)]) = true := by decide

/-- Vector AL32: V2 is ignored. -/
theorem test_shl :
    ticksTo (at' 0x812E (regs [(1, 0x81), (2, 0xEE)] State.reset)) 0x0202
      (regs [(1, 0x02), (0xF, 0x01)]) = true := by decide

/-- Vector AL35. -/
theorem test_shl_vf :
    ticksTo (at' 0x8F0E (regs [(0xF, 0x80)] State.reset)) 0x0202 (regs [(0xF, 0x01)]) = true := by decide

/-- Vector CF22. -/
theorem test_sneVy : ticksTo (at' 0x9120 (regs [(1, 0x07), (2, 0x08)] State.reset)) 0x0204 id = true := by decide

/-- Vector CF21. -/
theorem test_sneVy_not : ticksTo (at' 0x9120 (regs [(1, 0x07), (2, 0x07)] State.reset)) 0x0202 id = true := by decide

/-- Vector MT1. -/
theorem test_ldI : ticksTo (at' 0xA2F0 State.reset) 0x0202 ({ · with index := 0x02F0 }) = true := by decide

/-- Vector CF25: the target is not reduced. -/
theorem test_jpV0 : ticksTo (at' 0xBFFF (regs [(0, 0xFF)] State.reset)) 0x10FE id = true := by decide

/-- Vector AL38. -/
theorem test_rnd :
    ticksTo (at' 0xC10F (regs [(1, 0x55)] State.reset) (rnd := 0xA7)) 0x0202 (regs [(1, 0x07)]) = true := by decide

/-- Vector DS5: vertical wrap. -/
theorem test_drw :
    ticksTo (at' 0xD012 (bytes 0x400 [0x81, 0xC0] (regs [(0, 0x00), (1, 0x1F)] (withI 0x0400)))) 0x0202
      (fun s => { flip [(0, 0), (0, 1), (31, 0), (31, 7)] s with displayDirty := true }) = true := by decide

/-- Vector DS9: one of two bits lands on an ON pixel. -/
theorem test_drw_hits :
    ticksTo (at' 0xD011 (flip [(0, 1)] (bytes 0x400 [0xC0] (withI 0x0400)))) 0x0202
      (fun s => { regs [(0xF, 0x01)] (flip [(0, 0), (0, 1)] s) with displayDirty := true }) = true := by decide

/-- Vector KY7: the field is the key. -/
theorem test_skp : ticksTo (at' 0xE59E (regs [(5, 0x04)] State.reset) (keys := 0x0010)) 0x0202 id = true := by decide

/-- Vector KY8: the same under the other value of `KEY_SELECT`. -/
theorem test_skp_register :
    ticksTo (at' 0xE59E (regs [(5, 0x04)] registerKeys) (keys := 0x0010)) 0x0204 id = true := by decide

/-- Vector KY4. -/
theorem test_sknp : ticksTo (at' 0xE4A1 State.reset (keys := 0x0020)) 0x0204 id = true := by decide

/-- Vector KY9: the low nibble of the register is the key. -/
theorem test_sknp_register :
    ticksTo (at' 0xE5A1 (regs [(5, 0x14)] registerKeys) (keys := 0x0010)) 0x0202 id = true := by decide

/-- Vector MT11: the copy precedes the decay. -/
theorem test_ldVxDt :
    ticksTo (at' 0xF107 { State.reset with dt := 0x2A }) 0x0202
      (fun s => { regs [(1, 0x2A)] s with dt := 0x29 }) = true := by decide

/-- Vector KY13: entering compares nothing. -/
theorem test_ldVxK_enters :
    ticksTo (at' 0xF30A { regs [(3, 0xEE)] State.reset with dt := 0x05 } (keys := 0x0080)) 0x0200
      ({ · with dt := 0x04, awaitingKey := true, prevkey := 0x0080 }) = true := by decide

/-- Sequence KW4, tick 3: the lowest released key. -/
theorem test_ldVxK_resolves :
    ticksTo (at' 0xF30A { State.reset with awaitingKey := true, prevkey := 0x0208 }) 0x0202
      (fun s => { regs [(3, 0x03)] s with awaitingKey := false }) = true := by decide

/-- Vector MT14. -/
theorem test_ldDt :
    ticksTo (at' 0xF115 (regs [(1, 0x05)] State.reset)) 0x0202 ({ · with dt := 0x04 }) = true := by decide

/-- Vector MT18. -/
theorem test_ldSt :
    ticksTo (at' 0xF118 { regs [(1, 0xFF)] State.reset with dt := 0x02 }) 0x0202
      ({ · with dt := 0x01, st := 0xFE }) = true := by decide

/-- Vector MT4: 12-bit wrap, no flag. -/
theorem test_addI :
    ticksTo (at' 0xF21E (regs [(2, 0x10)] (withI 0x0FF8))) 0x0202 ({ · with index := 0x0008 }) = true := by decide

/-- Vector MT8: only the low nibble counts. -/
theorem test_ldF :
    ticksTo (at' 0xF329 (regs [(3, 0x1A)] State.reset)) 0x0202 ({ · with index := 0x0082 }) = true := by decide

/-- Vector MT22: the last legal address. -/
theorem test_ldB :
    ticksTo (at' 0xF133 (regs [(1, 0x7B)] (withI 0x0FFD))) 0x0202 (bytes 0xFFD [0x01, 0x02, 0x03]) = true := by decide

/-- Vector MT23. -/
theorem test_ldB_past_end :
    faultsTo (at' 0xF133 { regs [(1, 0x7B)] (withI 0x0FFE) with dt := 0x04 })
      .outOfBoundsData 0x0202 = true := by decide

/-- Vector MT25: V3 is not stored. -/
theorem test_storeRegs :
    ticksTo (at' 0xF255 (regs [(0, 0x11), (1, 0x22), (2, 0x33), (3, 0x44)] (withI 0x0400))) 0x0202
      (bytes 0x400 [0x11, 0x22, 0x33]) = true := by decide

/-- Vector MT28. -/
theorem test_storeRegs_past_end :
    faultsTo (at' 0xF255 (regs [(0, 0x11), (1, 0x22), (2, 0x33)] (withI 0x0FFE)))
      .outOfBoundsData 0x0202 = true := by decide

/-- Vector MT32: glyph 0 of the font. -/
theorem test_loadRegs :
    ticksTo (at' 0xF465 (withI 0x0050)) 0x0202
      (regs [(0, 0xF0), (1, 0x90), (2, 0x90), (3, 0x90), (4, 0xF0)]) = true := by decide

/-- Vector MT35: VF is loaded like any register, here with the word's own first byte. -/
theorem test_loadRegs_vf : ticksTo (at' 0xFF65 (withI 0x01F1)) 0x0202 (regs [(0xF, 0xFF)]) = true := by decide

/-- Vector CF19: an illegal word. -/
theorem test_illegal_word :
    faultsTo (at' 0x5121 (regs [(1, 0x07), (2, 0x07)] State.reset)) .illegalInstruction 0x0202 = true := by decide

/-- Vector CF29: a fetch at 0x0FFF. -/
theorem test_fetch_past_end :
    faultsTo
      { bytes 0xFFF [0x6A] State.reset with
        pc := 0x0FFF
        dt := 0x09
        inputs := [{ redrawn := false, keys := 0x0001, rnd := 0 }] }
      .outOfBoundsFetch 0x0FFF = true := by decide

/-- Vector CF30: an odd `PC` is legal. -/
theorem test_fetch_odd_pc :
    ticksTo (at' 0x6A07 { State.reset with pc := 0x0201 }) 0x0203 (regs [(0xA, 0x07)]) = true := by decide
/-! ## Witnesses: states that meet the hypotheses of the statements, clause by clause at the boundary values

The name after `witness_` is the statement's. -/

theorem faultsTo_spec {s : State} {mk : State → Fault} {pc : Word} (h : faultsTo s mk pc = true) :
    step s = .fault (mk { loaded s with pc := pc }) := by
  unfold faultsTo at h
  split at h
  · simp at h
  · rename_i f hs; rw [hs, beq_iff_eq.mp h]
  · simp at h

/-- `k` ticks end in a next state. -/
def ran (k : Nat) (s : State) : Bool :=
  match Sys2Proof.core.run k s with
  | .next _ => true
  | .fault _ => false
  | .refused _ => false

theorem ran_spec {k : Nat} {s : State} (h : ran k s = true) : ∃ t, Sys2Proof.core.run k s = .next t := by
  unfold ran at h
  split at h
  · exact ⟨_, ‹_›⟩
  · simp at h
  · simp at h

/-! ### Encoding -/

theorem witness_DecodeOfEncodeIsTheInstruction :
    (Instr.sys 0x001).wellFormed = true ∧ (Instr.sys 0xFFF).wellFormed = true ∧ (Instr.drw 15 15 15).wellFormed = true := by
  decide

theorem witness_EncodeOfDecodeIsTheWord :
    decodeWord 0x00ED = .ok (.sys 0x0ED) ∧ decodeWord 0x8FF6 = .ok (.shr 15 15) ∧ decodeWord 0xFF65 = .ok (.loadRegs 15) := by
  decide

theorem witness_DecoderTakesFirstMatchingRow :
    ∃ p ∈ opcodeTable, ∃ q ∈ opcodeTable, p.selects 0x00EE = true ∧ q.selects 0x00EE = true ∧ p.row < q.row := by decide

/-- A word that no row matches, and one that row 4 does. -/
theorem witness_DecoderTakesFirstMatchingRow_none :
    opcodeTable.find? (·.selects 0x5AB1) = none ∧ opcodeTable.find? (·.selects 0x0FFF) ≠ none := by decide

/-! ### The tick -/

theorem witness_StepRunsTheDecodedInstruction :
    let s := at' 0x6A01 { State.reset with pc := 0x0FFE }
    s.pc.toNat ≤ 0x0FFE ∧ decodeBytes (s.mem.readBytes s.pc.toNat 2) = .ok (.ldKk 0xA 0x01, []) ∧
    s.inputs = [{ redrawn := false, keys := 0, rnd := 0 }] ∧ State.reset.inputs = [] := by decide

theorem witness_FetchFaultsExactlyAbove0FFE :
    0x0FFE < ({ State.reset with pc := 0x0FFF } : State).pc.toNat ∧
    ({ State.reset with pc := 0x0FFE } : State).pc.toNat ≤ 0x0FFE := by decide

theorem witness_IllegalWordFaults :
    let s := at' 0x5121 { State.reset with pc := 0x0FFE }
    s.pc.toNat ≤ 0x0FFE ∧ decodeWord (s.wordAt s.pc.toNat) = .error (.illegal 0x5121) := by decide

/-- Each cause of each fault, at the first value that faults: the hypotheses of FaultsArePrecise, of
FaultsHaveOnlyTheListedCauses, and of the fault clauses of OnlySuccessfulTicksDecayTimers and ResultRecordReportsTheTick. -/
theorem witness_faults :
    (∃ t, step { State.reset with pc := 0x0FFF } = .fault (.outOfBoundsFetch t)) ∧
    (∃ t, step (at' 0x5121 State.reset) = .fault (.illegalInstruction t)) ∧
    (∃ t, step (at' 0x00EE State.reset) = .fault (.stackUnderflow t)) ∧
    (∃ t, step (at' 0x2300 { State.reset with sp := 16 }) = .fault (.stackOverflow t)) ∧
    (∃ t, step (at' 0xD01F (withI 0x0FF2)) = .fault (.outOfBoundsData t)) ∧
    (∃ t, step (at' 0xF133 (withI 0x0FFE)) = .fault (.outOfBoundsData t)) ∧
    (∃ t, step (at' 0xFF55 (withI 0x0FF1)) = .fault (.outOfBoundsData t)) ∧
    (∃ t, step (at' 0xF165 (withI 0x0FFF)) = .fault (.outOfBoundsData t)) :=
  ⟨⟨_, step_of_no_fetch (by decide)⟩,
    ⟨_, faultsTo_spec (mk := .illegalInstruction) (pc := 0x0202) (by decide)⟩,
    ⟨_, faultsTo_spec (mk := .stackUnderflow) (pc := 0x0202) (by decide)⟩,
    ⟨_, faultsTo_spec (mk := .stackOverflow) (pc := 0x0202) (by decide)⟩,
    ⟨_, faultsTo_spec (mk := .outOfBoundsData) (pc := 0x0202) (by decide)⟩,
    ⟨_, faultsTo_spec (mk := .outOfBoundsData) (pc := 0x0202) (by decide)⟩,
    ⟨_, faultsTo_spec (mk := .outOfBoundsData) (pc := 0x0202) (by decide)⟩,
    ⟨_, faultsTo_spec (mk := .outOfBoundsData) (pc := 0x0202) (by decide)⟩⟩

/-- One entry on the stack, and `I` at 0x300: a state from which every instruction succeeds. -/
def ready : State := { withI 0x0300 with sp := 1 }

/-- Families 0x0 to 0x7: the state is at the instruction and the tick succeeds, the hypotheses of PcAfterEveryInstruction, of
StateIsWrittenOnlyByItsWriters, and of the success clauses of OnlySuccessfulTicksDecayTimers and ResultRecordReportsTheTick. -/
theorem witness_runs_0_to_7 :
    runs (at' 0x0000 ready) .nop = true ∧ runs (at' 0x00E0 ready) .cls = true ∧ runs (at' 0x00EE ready) .ret = true ∧
    runs (at' 0x0FFF ready) (.sys 0xFFF) = true ∧ runs (at' 0x1FFF ready) (.jp 0xFFF) = true ∧
    runs (at' 0x2000 ready) (.call 0x000) = true ∧ runs (at' 0x3100 ready) (.seKk 1 0x00) = true ∧
    runs (at' 0x41FF ready) (.sneKk 1 0xFF) = true ∧ runs (at' 0x5FF0 ready) (.seVy 15 15) = true ∧
    runs (at' 0x6FFF ready) (.ldKk 15 0xFF) = true ∧ runs (at' 0x7FFF ready) (.addKk 15 0xFF) = true := by decide

/-- The same for families 0x8 to 0xD. -/
theorem witness_runs_8_to_D :
    runs (at' 0x8120 ready) (.ldVy 1 2) = true ∧ runs (at' 0x8121 ready) (.orVy 1 2) = true ∧
    runs (at' 0x8122 ready) (.andVy 1 2) = true ∧ runs (at' 0x8123 ready) (.xorVy 1 2) = true ∧
    runs (at' 0x8124 ready) (.addVy 1 2) = true ∧ runs (at' 0x8125 ready) (.subVy 1 2) = true ∧
    runs (at' 0x8126 ready) (.shr 1 2) = true ∧ runs (at' 0x8127 ready) (.subnVy 1 2) = true ∧
    runs (at' 0x812E ready) (.shl 1 2) = true ∧ runs (at' 0x9120 ready) (.sneVy 1 2) = true ∧
    runs (at' 0xAFFF ready) (.ldI 0xFFF) = true ∧ runs (at' 0xBFFF ready) (.jpV0 0xFFF) = true ∧
    runs (at' 0xC1FF ready) (.rnd 1 0xFF) = true ∧ runs (at' 0xD125 ready) (.drw 1 2 5) = true := by decide

/-- The same for families 0xE and 0xF; a wait is entered and then resolved. -/
theorem witness_runs_E_F :
    runs (at' 0xE19E ready) (.skp 1) = true ∧ runs (at' 0xE1A1 ready) (.sknp 1) = true ∧
    runs (at' 0xF107 ready) (.ldVxDt 1) = true ∧ runs (at' 0xF10A ready) (.ldVxK 1) = true ∧
    runs (at' 0xF10A { ready with awaitingKey := true, prevkey := 0x8000 }) (.ldVxK 1) = true ∧
    runs (at' 0xF115 ready) (.ldDt 1) = true ∧ runs (at' 0xF118 ready) (.ldSt 1) = true ∧
    runs (at' 0xF11E ready) (.addI 1) = true ∧ runs (at' 0xF129 ready) (.ldF 1) = true ∧
    runs (at' 0xF133 ready) (.ldB 1) = true ∧ runs (at' 0xFF55 ready) (.storeRegs 15) = true ∧
    runs (at' 0xFF65 ready) (.loadRegs 15) = true := by decide

theorem witness_PcAfterEveryInstruction :
    (at' 0x00EE ready).AtInstr .ret ∧ (∃ t, step (at' 0x00EE ready) = .next t) ∧ 0 < (at' 0x00EE ready).sp.val :=
  have h := runs_spec witness_runs_0_to_7.2.2.1
  ⟨h.1, h.2, by decide⟩

/-! ### Reset, load, invariants -/

/-- A machine with every parameter off its default. -/
def otherParams : Config.Params :=
  { keywaitEdge := .press
    keySelect   := .register
    font        := ⟨List.replicate 80 0xFF, by decide⟩
    romMaxLen   := ⟨4, by decide, by decide⟩ }

/-- The first and the last byte of another font, and the cells beside them. -/
theorem witness_ResetPlacesAnyFont :
    (State.resetWith otherParams).byteAt 0x050 = 0xFF ∧ (State.resetWith otherParams).byteAt 0x09F = 0xFF ∧
    (State.resetWith otherParams).byteAt 0x04F = 0x00 ∧ (State.resetWith otherParams).byteAt 0x0A0 = 0x00 := by decide

/-- The empty image, the longest one, one byte pair more, and an odd one; and the bound of a machine that admits less. -/
theorem witness_LoadWritesTheProgramOnly :
    loadable State.reset.params.romMaxLen [] = true ∧
    loadable State.reset.params.romMaxLen (List.replicate 3584 0x00#8) = true ∧
    loadable State.reset.params.romMaxLen (List.replicate 3586 0x00#8) = false ∧
    loadable State.reset.params.romMaxLen [0x12] = false ∧
    loadable otherParams.romMaxLen (List.replicate 4 0x00#8) = true ∧
    loadable otherParams.romMaxLen (List.replicate 6 0x00#8) = false := by
  simp only [loadable, List.length_replicate]
  decide

/-- A state with `I`, a return address and `PC` at their bounds, which the next tick leaves. -/
def bounds : State := at' 0xBFFF (regs [(0, 0xFF)] { withI 0x0FFF with
  pc := 0x0FFE
  sp := 16
  stack := Vector.replicate 16 0x1000 })

/-- A pending wait, in memory and in `awaiting_key`. -/
def waiting : State := { at' 0xF30A State.reset (keys := 0x0208) with awaitingKey := true, prevkey := 0x0208 }

theorem witness_StepKeepsTheInvariant :
    (Inv bounds ∧ ∃ t, step bounds = .next t) ∧ (Inv waiting ∧ ∃ t, step waiting = .next t) :=
  ⟨⟨⟨by decide, by decide, by decide, by decide, fun h => absurd h (by decide)⟩,
      (runs_spec (i := .jpV0 0xFFF) (by decide)).2⟩,
    ⟨⟨by decide, by decide, by decide, by decide, fun _ => ⟨3, (runs_spec (by decide)).1⟩⟩,
      (runs_spec (i := .ldVxK 3) (by decide)).2⟩⟩

/-- The program of spec/95_test_vectors.md S7 with the jump made a jump to itself, on a machine with other parameters. -/
def loadedProgram : State :=
  (State.resetWith otherParams).setMem ((State.resetWith otherParams).mem.storeBytes 0x200 [0x6A, 0x05, 0x12, 0x02])

theorem witness_ReachableStatesMeetTheInvariant :
    (State.resetWith otherParams).load [0x6A, 0x05, 0x12, 0x02] = some loadedProgram ∧
    ∃ t, Sys2Proof.core.run 3 { loadedProgram with inputs := List.replicate 3 ⟨true, 0xFFFF, 0x55⟩ } = .next t :=
  ⟨rfl, ran_spec (by decide)⟩

/-- The hypotheses of the first two clauses: the register beside the destination, the one above a loaded block, a flag register that
is not written, and handlers that leave `PC`. -/
theorem witness_StateIsWrittenOnlyByItsWriters :
    ¬MayWriteV (.ldKk 1 0x00) 2 ∧ ¬MayWriteV (.loadRegs 1) 2 ∧ ¬MayWriteV (.addKk 1 0x00) vf ∧
    ¬MayWriteV (.addVy 1 2) 2 ∧ ¬MayWritePc .nop ∧ ¬MayWritePc (.storeRegs 15) := by
  simp only [MayWriteV, MayWritePc]
  decide

theorem witness_OnlyKeyWaitTouchesItsState : ∀ x, Instr.cls ≠ .ldVxK x := fun _ => Instr.noConfusion

theorem witness_NothingReadsSoundTimerOrDirty : ∃ t, exec .ret ready = .next t := ⟨_, rfl⟩

theorem witness_SelfJumpRunsForever :
    (at' 0x1200 State.reset).AtSelfJump ∧ (at' 0x1FFE { State.reset with pc := 0x0FFE }).AtSelfJump :=
  ⟨⟨0x200, (runs_spec (by decide)).1, by decide⟩, ⟨0xFFE, (runs_spec (by decide)).1, by decide⟩⟩

/-- One tick of a no-op. -/
theorem witness_DelayTimerCountsTicks :
    (∃ t, Sys2Proof.core.run 1 (at' 0x0000 State.reset) = .next t) ∧
    ∀ (j : Nat) (u : State), j < 1 → Sys2Proof.core.run j (at' 0x0000 State.reset) = .next u → ∀ x, ¬u.AtInstr (.ldDt x) := by
  refine ⟨ran_spec (by decide), fun j u hj hu x hx => ?_⟩
  obtain rfl : j = 0 := by omega
  obtain rfl := Host.Outcome.next.inj hu
  exact Instr.noConfusion (AtInstr_unique hx (runs_spec (i := .nop) (by decide)).1)

/-- The last two words of memory, and an odd `PC`. -/
theorem witness_ZeroMemoryRunsToAFetchFault :
    ({ State.reset with pc := 0x0FFC } : State).pc.toNat + 2 * 2 = 0x1000 ∧
    ({ State.reset with pc := 0x0FFD } : State).pc.toNat + 2 * 1 = 0x0FFF ∧
    ∀ a : Nat, 0x0FFC ≤ a → a ≤ 0x0FFF → State.reset.byteAt a = 0x00#8 := by
  refine ⟨by decide, by decide, fun a h1 h2 => ?_⟩
  interval_cases a <;> decide

/-! ### Control flow -/

theorem witness_NoOpsOnlyAdvanceAndDecay :
    let s := at' 0x00EF { State.reset with pc := 0x0FFE }
    s.pc.toNat ≤ 0x0FFE ∧ (fieldsOf (s.wordAt s.pc.toNat)).family = 0x0#4 ∧
    (fieldsOf (s.wordAt s.pc.toNat)).nnn ≠ 0x0E0#12 ∧ (fieldsOf (s.wordAt s.pc.toNat)).nnn ≠ 0x0EE#12 := by decide

theorem witness_ReturnPopsTheStack :
    0 < ({ State.reset with sp := 1 } : State).sp.val ∧ 0 < ({ State.reset with sp := 16 } : State).sp.val ∧
    State.reset.sp.val = 0 := by decide

theorem witness_CallPushesAndJumps :
    State.reset.sp.val < 16 ∧ ({ State.reset with sp := 15 } : State).sp.val < 16 ∧
    ({ State.reset with sp := 16 } : State).sp.val = 16 := by decide

theorem witness_CallThenReturnRestoresPc :
    ∃ t, exec (.call 0x300) { State.reset with sp := 15 } = .next t := ⟨_, rfl⟩

/-- Both values of each condition of a skip. -/
theorem witness_ComparesSkipExactlyWhenStated :
    State.reset.readV 1 = 0x00 ∧ State.reset.readV 1 ≠ 0x01 ∧ State.reset.readV 1 = State.reset.readV 2 ∧
    (regs [(1, 0x01)] State.reset).readV 1 ≠ (regs [(1, 0x01)] State.reset).readV 2 := by decide

/-- The first and the last illegal word of families 5 and 9. -/
theorem witness_ComparesSkipExactlyWhenStated_illegal :
    (fieldsOf 0x5001).family = 0x5#4 ∧ (fieldsOf 0x5001).n ≠ 0x0#4 ∧
    (fieldsOf 0x9FFF).family = 0x9#4 ∧ (fieldsOf 0x9FFF).n ≠ 0x0#4 := by decide

/-! ### Flags -/

/-- Sums of 255 and 256. -/
theorem witness_AddSetsCarry :
    (let s := regs [(1, 0x80), (2, 0x7F)] State.reset; ¬255 < (s.readV 1).toNat + (s.readV 2).toNat) ∧
    (let s := regs [(1, 0x80), (2, 0x80)] State.reset; 255 < (s.readV 1).toNat + (s.readV 2).toNat) ∧
    (1 : RegIdx) ≠ vf ∧ ¬(15 : RegIdx) ≠ vf := by decide

/-- Equal operands, and a difference of one in either order. -/
theorem witness_SubtractionsSetStrictFlag :
    (let s := regs [(1, 0x05), (2, 0x05)] State.reset;
      ¬(s.readV 2).toNat < (s.readV 1).toNat ∧ ¬(s.readV 1).toNat < (s.readV 2).toNat) ∧
    (let s := regs [(1, 0x06), (2, 0x05)] State.reset; (s.readV 2).toNat < (s.readV 1).toNat) ∧
    (let s := regs [(1, 0x05), (2, 0x06)] State.reset; (s.readV 1).toNat < (s.readV 2).toNat) := by decide

/-- Bit 0 set and clear; 127 and 128. -/
theorem witness_ShiftsSetTheBitShiftedOut :
    ((regs [(1, 0x7F)] State.reset).readV 1).toNat % 2 = 1 ∧ ¬((regs [(1, 0x80)] State.reset).readV 1).toNat % 2 = 1 ∧
    ¬128 ≤ ((regs [(1, 0x7F)] State.reset).readV 1).toNat ∧ 128 ≤ ((regs [(1, 0x80)] State.reset).readV 1).toNat := by
  decide

/-! ### Timers and memory -/

/-- A tick at each of the three timer instructions, with `V[x]` at 0 and at 255. -/
theorem witness_TimerAccessCopies :
    (at' 0xF107 State.reset).AtInstr (.ldVxDt 1) ∧ (at' 0xF115 State.reset).AtInstr (.ldDt 1) ∧
    (at' 0xF118 (regs [(1, 0xFF)] State.reset)).AtInstr (.ldSt 1) :=
  ⟨(runs_spec (by decide)).1, (runs_spec (by decide)).1, (runs_spec (by decide)).1⟩

theorem witness_BcdWritesThreeDigits :
    (withI 0x0FFD).index.toNat + 2 ≤ 0x0FFF ∧ 0x0FFF < (withI 0x0FFE).index.toNat + 2 := by decide

/-- One register and the whole bank, at the last legal base and the first faulting one: the hypotheses of
BlockStoreWritesTheBank and of BlockLoadReadsTheBank. -/
theorem witness_BlockTransfers :
    (withI 0x0FFF).index.toNat + (0 : RegIdx).val ≤ 0x0FFF ∧ 0x0FFF < (withI 0x1000).index.toNat + (0 : RegIdx).val ∧
    (withI 0x0FF0).index.toNat + (15 : RegIdx).val ≤ 0x0FFF ∧
    0x0FFF < (withI 0x0FF1).index.toNat + (15 : RegIdx).val := by decide

theorem witness_StoreThenLoadRoundTrips : ∃ t, exec (.storeRegs 15) (withI 0x0FF0) = .next t := by
  have h : blockFits (withI 0x0FF0).index ((15 : RegIdx).val + 1) = true := by decide
  simp only [exec, execStoreRegs, if_pos h]
  exact ⟨_, rfl⟩

/-- The store of the whole bank at the top of memory, and a fetch of its last two bytes. -/
theorem witness_StoredBytesAreFetched :
    ∃ t u : State, exec (.storeRegs 15) (withI 0x0FF0) = .next t ∧ (15 : RegIdx).val = (14 : RegIdx).val + 1 ∧
      (15 : RegIdx) ≤ 15 ∧ u.mem = t.mem ∧ u.pc.toNat = (withI 0x0FF0).index.toNat + (14 : RegIdx).val :=
  have ⟨t, h⟩ := witness_StoreThenLoadRoundTrips
  ⟨t, t.setPc 0x0FFE, h, by decide, by decide, rfl, rfl⟩

/-! ### Display -/

theorem witness_DrawFlipsTheCoveredPixels :
    (0x0 : Nibble).toNat = 0 ∧ (withI 0x0FF1).index.toNat + (0xF : Nibble).toNat - 1 ≤ 0x0FFF ∧
    1 ≤ (0xF : Nibble).toNat ∧ 0x0FFF < (withI 0x0FF2).index.toNat + (0xF : Nibble).toNat - 1 := by decide

/-- The two clauses about `VF`: a covered pixel that is ON, and a sprite that covers no ON pixel. -/
theorem witness_DrawFlipsTheCoveredPixels_flag :
    (∃ r c, SpriteCovers (flip [(0, 0)] (withI 0x0050)) 0 1 1 r c ∧ (flip [(0, 0)] (withI 0x0050)).pixel r c = true) ∧
    ¬(∃ r c, SpriteCovers (withI 0x0050) 0 1 1 r c ∧ (withI 0x0050).pixel r c = true) := by
  refine ⟨⟨0, 0, ⟨0, 0, by decide, by decide, by decide, by decide, by decide⟩, by decide⟩, ?_⟩
  rintro ⟨r, c, -, h⟩
  simp [withI, State.reset, State.pixel] at h

/-- The hypothesis, and the two clauses about `VF`: a covered pixel that is OFF, and a sprite that covers no pixel. -/
theorem witness_DrawingTwiceRestoresTheScreen :
    (∃ t, exec (.drw 0 1 1) (withI 0x0050) = .next t) ∧
    (∃ r c, SpriteCovers (withI 0x0050) 0 1 1 r c ∧ (withI 0x0050).pixel r c = false) ∧
    ¬(∃ r c, SpriteCovers (withI 0x0050) 0 1 0 r c ∧ (withI 0x0050).pixel r c = false) := by
  refine ⟨⟨_, rfl⟩, ⟨0, 0, ⟨0, 0, by decide, by decide, by decide, by decide, by decide⟩, by decide⟩, ?_⟩
  rintro ⟨r, c, ⟨i, j, hi, -⟩, -⟩
  simp at hi

/-! ### Keys -/

/-- Key 5 down and key 4 up, under both values of `KEY_SELECT`. -/
theorem witness_KeySkipsTestTheSelectedKey :
    let s := { regs [(4, 0x15), (5, 0x04)] State.reset with key := 0x0020 }
    s.key.getLsbD (keyTested .field s 5) = true ∧ s.key.getLsbD (keyTested .field s 4) = false ∧
    s.key.getLsbD (keyTested .register s 4) = true ∧ s.key.getLsbD (keyTested .register s 5) = false := by decide

theorem witness_KeyWaitEnters : State.reset.awaitingKey = false := rfl

/-- Two released keys (the lowest is 3), and none. -/
theorem witness_KeyWaitResolvesOnLowestKey :
    let s := { State.reset with awaitingKey := true, prevkey := 0x0208 }
    s.awaitingKey = true ∧ KeyQualifies s.params.keywaitEdge s.prevkey s.key 3 ∧
    (∀ j : RegIdx, j < 3 → ¬KeyQualifies s.params.keywaitEdge s.prevkey s.key j) ∧
    (∀ k : RegIdx, ¬KeyQualifies s.params.keywaitEdge s.prevkey 0x0208 k) :=
  have h := foundKey_eq_some (s := { State.reset with awaitingKey := true, prevkey := 0x0208 }) (k := 3) (by decide)
  ⟨rfl, h.1, h.2, foundKey_eq_none (s := { State.reset with prevkey := 0x0208, key := 0x0208 }) |>.mp (by decide)⟩

/-- The same for `KEYWAIT_EDGE = press`: keys 0 and 15 pressed, and none. -/
theorem witness_KeyWaitResolvesOnLowestKey_press :
    (KeyQualifies .press 0x0000 0x8001 0 ∧ ∀ j : RegIdx, j < 0 → ¬KeyQualifies .press 0x0000 0x8001 j) ∧
    ∀ k : RegIdx, ¬KeyQualifies .press 0x8001 0x0001 k :=
  ⟨⟨qualifies_iff.mp (by decide), fun j hj => absurd hj (Fin.not_lt_zero j)⟩,
    firstQualifying_eq_none (ks := allKeys) |>.mp (by decide) |> fun h k => h k (mem_allKeys k)⟩

theorem witness_PendingWaitStaysInPlace :
    waiting.AtInstr (.ldVxK 3) ∧ waiting.awaitingKey = true ∧
    ∀ k : RegIdx, ¬KeyQualifies waiting.params.keywaitEdge waiting.prevkey waiting.nextInput.keys k :=
  ⟨(runs_spec (by decide)).1, rfl,
    foundKey_eq_none (s := { waiting with key := waiting.nextInput.keys }) |>.mp (by decide)⟩

/-- Two ticks to come, with key 2 held. -/
theorem witness_WaitWithoutTransitionsNeverEnds :
    let s := { at' 0xF30A State.reset with
      awaitingKey := true
      prevkey := 0x0004
      inputs := [{ redrawn := false, keys := 0x0004, rnd := 0 }, { redrawn := true, keys := 0x0004, rnd := 0xFF }] }
    s.AtInstr (.ldVxK 3) ∧ s.awaitingKey = true ∧ (∀ inp ∈ s.inputs, inp.keys = s.prevkey) ∧ 2 ≤ s.inputs.length :=
  ⟨(runs_spec (by decide)).1, rfl, by decide, by decide⟩

end Sys2Proof.Tests
end

section
/-! ## Reset with parameters and the program load (rules R5, R27, R220, R225, R226) -/

namespace Sys2Proof.Machine

/-! ### Memory: the bytes of a block, and storing what is there already -/

/-- `Memory.read_storeBytes_inside` in the form in which the obligations compare a block with a list. -/
theorem Memory.some_read_storeBytes (m : Memory) (base j : Nat) (bs : List Byte)
    (hj : j < bs.length) (h : base + bs.length ≤ Config.memSize) :
    some ((m.storeBytes base bs).read (base + j)) = bs[j]? := by
  rw [Memory.read_storeBytes_inside m base j bs hj h, List.getElem?_eq_getElem hj]

/-- Storing the bytes that canonical memory reads as already leaves the same list of cells. -/
theorem Memory.storeBytes_eq_self {m : Memory} {base : Nat} {bs : List Byte} (hm : m.wf = true)
    (hfit : base + bs.length ≤ Config.memSize) (h : ∀ j (hj : j < bs.length), bs[j] = m.read (base + j)) :
    m.storeBytes base bs = m := by
  refine Memory.eq_of_read_eq (Memory.wf_storeBytes base bs hm) hm fun a => ?_
  by_cases ha : base ≤ a ∧ a < base + bs.length
  · obtain ⟨j, rfl⟩ := Nat.exists_eq_add_of_le ha.1
    have hj : j < bs.length := by omega
    rw [Memory.read_storeBytes_inside m base j bs hj hfit, h j hj]
  · exact Memory.read_storeBytes_other m base a bs (by omega)

/-! ### The reset contents of memory (rules R26, R27) -/

@[simp] theorem Memory.read_nil (a : Nat) : Memory.read [] a = initialByte a := rfl

/-- Every font fits in memory. -/
theorem font_fits (font : Config.Font) : Config.fontBase + font.bytes.length ≤ Config.memSize := by
  rw [length_font]
  decide

/-- Inside the font area the reset contents are the default font. -/
theorem initialByte_font (j : Nat) (hj : j < defaultFont.bytes.length) :
    initialByte (Config.fontBase + j) = defaultFont.bytes[j] := by
  rw [initialByte, if_pos (Nat.le_add_right _ _), Nat.add_sub_cancel_left, List.getD_eq_getElem _ _ hj]

/-- Outside the font area the reset contents are 0. -/
theorem initialByte_outside_font (a : Nat) (ha : a < 0x050 ∨ 0x09F < a) : initialByte a = 0x00#8 := by
  have hsize := defaultFont.size
  unfold initialByte
  split
  · next hle =>
    simp only [Config.fontBase] at hle ⊢
    exact List.getD_eq_default _ _ (by omega)
  · rfl

/-! ### Reset with parameters -/

/-- Memory after a reset lists the machine's font over the reset contents. -/
theorem byteAt_resetWith (params : Config.Params) (a : Nat) :
    (State.resetWith params).byteAt a = (Memory.storeBytes [] Config.fontBase params.font.bytes).read a := rfl

theorem byteAt_resetWith_font (params : Config.Params) (j : Nat) (hj : j < 80) :
    some ((State.resetWith params).byteAt (0x050 + j)) = params.font.bytes[j]? :=
  Memory.some_read_storeBytes [] Config.fontBase j params.font.bytes (by rwa [params.font.size]) (font_fits params.font)

theorem byteAt_resetWith_outside_font (params : Config.Params) (a : Nat) (ha : a < 0x050 ∨ 0x09F < a) :
    (State.resetWith params).byteAt a = 0x00#8 := by
  have hend := length_font params.font
  have hout : a < Config.fontBase ∨ Config.fontBase + params.font.bytes.length ≤ a := by
    rw [hend]
    exact ha
  rw [byteAt_resetWith, Memory.read_storeBytes_other _ _ _ _ hout, Memory.read_nil, initialByte_outside_font a ha]

/-- The default font is what unlisted memory reads as, so the default reset lists no cell. -/
theorem resetWith_defaultParams : State.resetWith defaultParams = State.reset := by
  have hmem : Memory.storeBytes [] Config.fontBase defaultParams.font.bytes = [] :=
    Memory.storeBytes_eq_self Memory.wf_nil (font_fits _) fun j hj => (initialByte_font j hj).symm
  rw [State.resetWith, hmem]
  rfl

/-- Settles O16: the font is a block of writes at 0x050 over memory that lists nothing, so the laws of a block give its
bytes, the zeros around it and the canonical form. -/
theorem resetPlacesAnyFont : Obligations.ResetPlacesAnyFont :=
  ⟨fun params => ⟨byteAt_resetWith_font params, byteAt_resetWith_outside_font params, wf_resetWith params, rfl⟩,
    resetWith_defaultParams⟩

/-! ### The program load -/

/-- The values of `ROM_MAX_LEN` (rule R5). -/
theorem exists_romMaxLen_iff (n : Nat) : (∃ m : Config.RomMaxLen, m.bytes = n) ↔ n ≤ 3584 ∧ n % 2 = 0 := by
  constructor
  · rintro ⟨m, rfl⟩
    exact ⟨m.bounded, m.even⟩
  · rintro ⟨hle, heven⟩
    exact ⟨⟨n, hle, heven⟩, rfl⟩

/-- An image that breaks the launch premise is not loaded (log entry 20). -/
theorem load_eq_none {s : State} {p : List Byte} (h : ¬loadable s.params.romMaxLen p = true) : s.load p = none :=
  if_neg h

/-- Replacing memory keeps everything else. -/
theorem keptBut_setMem (s : State) (m : Memory) : KeptBut { memory := true } s (s.setMem m) := by
  simp [KeptBut]

/-- Settles O17: an admitted image fits (`loadable_fits`), so the load is a block of writes from 0x200 inside memory; any
other image fails the test in `State.load`. -/
theorem loadWritesTheProgramOnly : Obligations.LoadWritesTheProgramOnly := by
  refine ⟨exists_romMaxLen_iff, fun s p => ?_⟩
  rw [← loadable_iff]
  refine ⟨fun hload => ?_, load_eq_none⟩
  have hfit := loadable_fits hload
  refine ⟨hfit, _, load_eq_some.mpr ⟨hload, rfl⟩, fun j hj => ?_, fun a ha => ?_, keptBut_setMem s _⟩
  · exact Memory.some_read_storeBytes s.mem Config.progBase j p hj hfit
  · exact Memory.read_storeBytes_other s.mem Config.progBase a p ha

end Sys2Proof.Machine
end

section
/-! ## What each instruction writes, the program counter, and the invariant of rule R31 -/

namespace Sys2Proof.Machine

/-! ### The instructions that can fault or that branch on the key wait: when they complete, and in which state -/

/-- A handler behind a bound check completes exactly when the check passes. -/
theorem ite_next_iff {c : Prop} [Decidable c] {u t : State} {f : State → Fault} {s : State} :
    (if c then .next u else raise f s) = .next t ↔ c ∧ t = u := by
  split
  · next hc => simp [hc, eq_comm]
  · next hc => simp [hc, raise]

theorem exec_ret_next {s t : State} : exec .ret s = .next t ↔ ∃ h : 0 < s.sp.val, t = s.pop h := by
  by_cases h : 0 < s.sp.val <;> simp [exec, execRet, raise, h, eq_comm]

theorem exec_call_next {nnn : Addr12} {s t : State} :
    exec (.call nnn) s = .next t ↔ ∃ h : s.sp.val < 16, t = (s.push s.pc h).setPc (nnn.setWidth 16) := by
  by_cases h : s.sp.val < 16 <;> simp [exec, execCall, raise, h, eq_comm]

theorem exec_drw_next {x y : RegIdx} {n : Nibble} {s t : State} :
    exec (.drw x y n) s = .next t ↔ blockFits s.index n.toNat = true ∧
      t = (s.setScreen (s.drawn x y n).1).setV vf (flagByte (s.drawn x y n).2) := ite_next_iff

theorem exec_ldB_next {x : RegIdx} {s t : State} :
    exec (.ldB x) s = .next t ↔ blockFits s.index 3 = true ∧
      t = s.setMem (s.mem.storeBytes s.index.toNat (bcdDigits (s.readV x))) := ite_next_iff

theorem exec_storeRegs_next {x : RegIdx} {s t : State} :
    exec (.storeRegs x) s = .next t ↔ blockFits s.index (x.val + 1) = true ∧
      t = s.setMem (s.mem.storeBytes s.index.toNat (s.bankUpTo x)) := ite_next_iff

theorem exec_loadRegs_next {x : RegIdx} {s t : State} :
    exec (.loadRegs x) s = .next t ↔ blockFits s.index (x.val + 1) = true ∧
      t = s.setBank (s.bankLoaded x s.index.toNat) := ite_next_iff

/-- The three ways a key wait completes (rules R174 to R176): it is entered, it stays pending, or a key resolves it. -/
theorem exec_ldVxK_next {x : RegIdx} {s t : State} :
    exec (.ldVxK x) s = .next t ↔
      (s.awaitingKey = false ∧ t = s.enterWait) ∨
      (s.awaitingKey = true ∧ s.foundKey = none ∧ t = s.stayWaiting) ∨
      (s.awaitingKey = true ∧ ∃ k, s.foundKey = some k ∧ t = (s.setV x (keyByte k)).setAwaiting false) := by
  cases ha : s.awaitingKey with
  | false => simp [exec, execLdVxK, ha, eq_comm]
  | true => cases hk : s.foundKey <;> simp [exec, execLdVxK, State.waitTick, ha, hk, eq_comm]

/-! ### The frame of each state operation -/

theorem keptBut_self (w : Writes) (s : State) : KeptBut w s s := by simp [KeptBut]

theorem keptBut_setV (s : State) (x : RegIdx) (b : Byte) : KeptBut { bank := true } s (s.setV x b) := by
  simp [KeptBut]

theorem keptBut_setResultThenFlag (s : State) (x : RegIdx) (a b : Byte) :
    KeptBut { bank := true } s (s.setResultThenFlag x a b) := by
  simp [KeptBut]

theorem keptBut_setBank (s : State) (bank : Vector Byte 16) : KeptBut { bank := true } s (s.setBank bank) := by
  simp [KeptBut]

theorem keptBut_setPc (s : State) (p : Word) : KeptBut { pc := true } s (s.setPc p) := by
  simp [KeptBut]

theorem keptBut_setIndex (s : State) (a : Word) : KeptBut { index := true } s (s.setIndex a) := by
  simp [KeptBut]

theorem keptBut_setDt (s : State) (b : Byte) : KeptBut { timers := true } s (s.setDt b) := by
  simp [KeptBut]

theorem keptBut_setSt (s : State) (b : Byte) : KeptBut { timers := true } s (s.setSt b) := by
  simp [KeptBut]

theorem keptBut_setScreen (s : State) (fb : Vector Row 32) : KeptBut { screen := true } s (s.setScreen fb) := by
  simp [KeptBut]

theorem keptBut_drawn (s : State) (fb : Vector Row 32) (b : Byte) :
    KeptBut { bank := true, screen := true } s ((s.setScreen fb).setV vf b) := by
  simp [KeptBut]

theorem keptBut_pop (s : State) (h : 0 < s.sp.val) : KeptBut { pc := true, stack := true } s (s.pop h) := by
  simp [KeptBut]

theorem keptBut_pushThenJump (s : State) (p q : Word) (h : s.sp.val < 16) :
    KeptBut { pc := true, stack := true } s ((s.push p h).setPc q) := by
  simp [KeptBut]

/-! ### The frame of each instruction -/

/-- The kinds of state the handler of an instruction may write (the write rows of rules R11 to R26). -/
def writesOf : Instr → Writes
  | .nop | .sys _ => {}
  | .cls => { screen := true }
  | .drw _ _ _ => { bank := true, screen := true }
  | .ret | .call _ => { pc := true, stack := true }
  | .jp _ | .jpV0 _ | .seKk _ _ | .sneKk _ _ | .seVy _ _ | .sneVy _ _ | .skp _ | .sknp _ => { pc := true }
  | .ldKk _ _ | .addKk _ _ | .ldVy _ _ | .orVy _ _ | .andVy _ _ | .xorVy _ _ | .addVy _ _ | .subVy _ _ | .shr _ _
  | .subnVy _ _ | .shl _ _ | .rnd _ _ | .ldVxDt _ | .loadRegs _ => { bank := true }
  | .ldI _ | .addI _ | .ldF _ => { index := true }
  | .ldDt _ | .ldSt _ => { timers := true }
  | .ldVxK _ => { bank := true, pc := true, keyWait := true }
  | .ldB _ | .storeRegs _ => { memory := true }

/-- An instruction that completes keeps every kind of state but those of its row in `writesOf`. -/
theorem exec_keptBut {i : Instr} {s t : State} (h : exec i s = .next t) : KeptBut (writesOf i) s t := by
  cases i
  case nop | sys => cases h; exact keptBut_self _ s
  case cls => cases h; exact keptBut_setScreen s _
  case jp | jpV0 | seKk | sneKk | seVy | sneVy | skp | sknp => cases h; exact keptBut_setPc s _
  case ldKk | addKk | ldVy | orVy | andVy | xorVy | rnd | ldVxDt => cases h; exact keptBut_setV s _ _
  case addVy | subVy | shr | subnVy | shl => cases h; exact keptBut_setResultThenFlag s _ _ _
  case ldI | addI | ldF => cases h; exact keptBut_setIndex s _
  case ldDt => cases h; exact keptBut_setDt s _
  case ldSt => cases h; exact keptBut_setSt s _
  case ret => obtain ⟨hsp, rfl⟩ := exec_ret_next.mp h; exact keptBut_pop s hsp
  case call => obtain ⟨hsp, rfl⟩ := exec_call_next.mp h; exact keptBut_pushThenJump s _ _ hsp
  case drw => obtain ⟨-, rfl⟩ := exec_drw_next.mp h; exact keptBut_drawn s _ _
  case ldB => obtain ⟨-, rfl⟩ := exec_ldB_next.mp h; exact keptBut_setMem s _
  case storeRegs => obtain ⟨-, rfl⟩ := exec_storeRegs_next.mp h; exact keptBut_setMem s _
  case loadRegs => obtain ⟨-, rfl⟩ := exec_loadRegs_next.mp h; exact keptBut_setBank s _
  case ldVxK =>
    obtain ⟨-, rfl⟩ | ⟨-, -, rfl⟩ | ⟨-, k, -, rfl⟩ := exec_ldVxK_next.mp h <;> simp [KeptBut, writesOf]

/-- A register that an instruction may not write keeps its value. -/
theorem exec_readV_of_not_mayWriteV {i : Instr} {s t : State} {r : RegIdx} (h : exec i s = .next t)
    (hr : ¬MayWriteV i r) : t.readV r = s.readV r := by
  obtain ⟨hbank, -⟩ := exec_keptBut h
  cases i
  case ldKk | addKk | ldVy | orVy | andVy | xorVy | rnd | ldVxDt => cases h; exact readV_setV_other s _ hr
  case addVy | subVy | shr | subnVy | shl =>
    cases h
    obtain ⟨hx, hvf⟩ := not_or.mp hr
    rw [readV_setResultThenFlag, if_neg hvf, if_neg hx]
  case drw => obtain ⟨-, rfl⟩ := exec_drw_next.mp h; exact readV_setV_other _ _ hr
  case loadRegs x =>
    obtain ⟨-, rfl⟩ := exec_loadRegs_next.mp h
    rw [readV_setBank, getElem_bankLoaded, if_neg (Fin.le_def.not.mp hr)]
  case ldVxK =>
    obtain ⟨-, rfl⟩ | ⟨-, -, rfl⟩ | ⟨-, k, -, rfl⟩ := exec_ldVxK_next.mp h
    · exact readV_enterWait s r
    · exact readV_stayWaiting s r
    · exact readV_setV_other s _ hr
  all_goals exact hbank rfl r

theorem exec_pc_of_not_mayWritePc {i : Instr} {s t : State} (h : exec i s = .next t) (hi : ¬MayWritePc i) :
    t.pc = s.pc := by
  obtain ⟨-, hpc, -⟩ := exec_keptBut h
  cases i
  case jp | call | ret | jpV0 | seKk | sneKk | seVy | sneVy | skp | sknp | ldVxK => exact absurd trivial hi
  all_goals exact hpc rfl

/-- Only a call writes an entry of the stack: a return leaves the popped entry as it was (rule R17). -/
theorem exec_stack_of_not_call {i : Instr} {s t : State} (h : exec i s = .next t) (hi : ∀ nnn, i ≠ .call nnn) :
    t.stack = s.stack := by
  obtain ⟨-, -, -, hstack, -⟩ := exec_keptBut h
  cases i
  case call nnn => exact absurd rfl (hi nnn)
  case ret => obtain ⟨hsp, rfl⟩ := exec_ret_next.mp h; exact stack_pop s hsp
  all_goals exact (hstack rfl).1

theorem exec_keyWait_of_not_ldVxK {i : Instr} {s t : State} (h : exec i s = .next t) (hi : ∀ x, i ≠ .ldVxK x) :
    t.awaitingKey = s.awaitingKey ∧ t.prevkey = s.prevkey := by
  obtain ⟨-, -, -, -, -, -, hkeyWait, -⟩ := exec_keptBut h
  cases i
  case ldVxK x => exact absurd rfl (hi x)
  all_goals exact hkeyWait rfl

/-- An instruction that does not write memory leaves the same list of cells. -/
theorem exec_mem_eq {i : Instr} {s t : State} (h : exec i s = .next t) (hi : (writesOf i).memory = false) :
    t.mem = s.mem := by
  cases i
  case ldB | storeRegs => cases hi
  case ret => obtain ⟨-, rfl⟩ := exec_ret_next.mp h; rfl
  case call => obtain ⟨-, rfl⟩ := exec_call_next.mp h; rfl
  case drw => obtain ⟨-, rfl⟩ := exec_drw_next.mp h; rfl
  case loadRegs => obtain ⟨-, rfl⟩ := exec_loadRegs_next.mp h; rfl
  case ldVxK => obtain ⟨-, rfl⟩ | ⟨-, -, rfl⟩ | ⟨-, k, -, rfl⟩ := exec_ldVxK_next.mp h <;> rfl
  all_goals cases h; rfl

/-- Settles O21: the frame of each instruction (`exec_keptBut`), refined where one kind of state has two elements with
different writers: the registers of the bank, the stack and `SP`, the two timers. -/
theorem stateIsWrittenOnlyByItsWriters : Obligations.StateIsWrittenOnlyByItsWriters := by
  intro i s t h
  obtain ⟨-, -, hindex, hstack, htimers, hscreen, hkeyWait, hmemory, hkey, hparams, -⟩ := exec_keptBut h
  refine ⟨fun r => exec_readV_of_not_mayWriteV h, exec_pc_of_not_mayWritePc h, ?index, ?stack, ?sp, ?dt, ?st, ?screen,
    ?keyWait, ?memory, hkey, hparams⟩
  case index =>
    cases i
    case ldI | addI | ldF => trivial
    all_goals exact hindex rfl
  case stack =>
    cases i
    case call => trivial
    all_goals exact exec_stack_of_not_call h nofun
  case sp =>
    cases i
    case call | ret => trivial
    all_goals exact (hstack rfl).2
  case dt =>
    cases i
    case ldDt => trivial
    case ldSt => cases h; rfl
    all_goals exact (htimers rfl).1
  case st =>
    cases i
    case ldSt => trivial
    case ldDt => cases h; rfl
    all_goals exact (htimers rfl).2
  case screen =>
    cases i
    case cls | drw => trivial
    all_goals exact hscreen rfl
  case keyWait =>
    cases i
    case ldVxK => trivial
    all_goals exact hkeyWait rfl
  case memory =>
    cases i
    case ldB | storeRegs => trivial
    all_goals exact hmemory rfl

/-! ### The program counter (rule R14) -/

/-- A successful tick at an instruction completed that instruction's handler. -/
theorem step_next_at {i : Instr} {s t : State} (hat : s.AtInstr i) (h : step s = .next t) :
    ∃ u, exec i s.entered = .next u ∧ t = u.decayTimers := by
  obtain ⟨j, u, hj, hu, rfl⟩ := step_next h
  obtain rfl := AtInstr_unique hat hj
  exact ⟨u, hu, rfl⟩

@[simp] theorem pc_entered (s : State) : s.entered.pc = s.pc + 2#16 := rfl

@[simp] theorem readV_entered (s : State) (r : RegIdx) : s.entered.readV r = s.readV r := rfl

/-- A skip adds 2 to the `PC` that the tick has advanced by 2 already (rules R83, R100). -/
theorem add_two_add_two (p : Word) : p + 2#16 + 2#16 = p + 4#16 := BitVec.add_assoc p 2#16 2#16

/-- The key test of a tick reads the snapshot of the tick (rule R81). -/
theorem keyDown_selectedKey_entered (s : State) (x : RegIdx) :
    s.entered.keyDown (s.entered.selectedKey x) = s.nextInput.keys.getLsbD (keyTested s.params.keySelect s x) := by
  rw [State.keyDown, selectedKey_val]
  rfl

/-- The target of `Bnnn` fits in 16 bits, so the sum does not wrap (rule R109, decision D7). -/
theorem toNat_jpV0_target (nnn : Addr12) (b : Byte) :
    ((nnn.setWidth 16 : Word) + b.setWidth 16).toNat = nnn.toNat + b.toNat := by
  have := nnn.isLt
  have := b.isLt
  simp only [BitVec.toNat_add, BitVec.toNat_setWidth]
  omega

/-- Settles O14: by the handler of each instruction that may write `PC`; every other leaves the advanced `PC`. -/
theorem pcAfterEveryInstruction : Obligations.PcAfterEveryInstruction := by
  intro s t i hat hstep
  obtain ⟨u, hu, rfl⟩ := step_next_at hat hstep
  have hpc := exec_pc_of_not_mayWritePc hu
  cases i
  case jp nnn => cases hu; exact BitVec.toNat_setWidth_of_le (by decide)
  case call nnn => obtain ⟨-, rfl⟩ := exec_call_next.mp hu; exact BitVec.toNat_setWidth_of_le (by decide)
  case ret => obtain ⟨hsp, rfl⟩ := exec_ret_next.mp hu; exact fun _ => rfl
  case jpV0 nnn => cases hu; exact toNat_jpV0_target nnn (s.readV 0)
  case seKk | sneKk | seVy | sneVy => cases hu; simp [PcAsInTable, add_two_add_two]
  case skp => cases hu; simp [PcAsInTable, add_two_add_two, keyDown_selectedKey_entered]
  case sknp x =>
    cases hu
    cases hkey : s.nextInput.keys.getLsbD (keyTested s.params.keySelect s x) <;>
      simp [PcAsInTable, add_two_add_two, keyDown_selectedKey_entered, hkey]
  case ldVxK =>
    obtain ⟨-, rfl⟩ | ⟨ha, -, rfl⟩ | ⟨-, k, -, rfl⟩ := exec_ldVxK_next.mp hu
    · simp [PcAsInTable]
    · simp [PcAsInTable, ha]
    · rfl
  all_goals exact hpc id

/-! ### The invariant of rule R31 -/

/-- `Fx33` and `Fx55` store a block, which keeps the canonical form; no other instruction writes memory. -/
theorem exec_mem_wf {i : Instr} {s t : State} (h : exec i s = .next t) (hs : s.mem.wf = true) : t.mem.wf = true := by
  have hmem := exec_mem_eq h
  cases i
  case ldB => obtain ⟨-, rfl⟩ := exec_ldB_next.mp h; exact Memory.wf_storeBytes _ _ hs
  case storeRegs => obtain ⟨-, rfl⟩ := exec_storeRegs_next.mp h; exact Memory.wf_storeBytes _ _ hs
  all_goals
    rw [hmem rfl]
    exact hs

/-- Each instruction that writes `I` leaves 12 bits in it (rules R140, R144, R145). -/
theorem exec_index_le {i : Instr} {s t : State} (h : exec i s = .next t) (hs : s.index.toNat ≤ 0x0FFF) :
    t.index.toNat ≤ 0x0FFF := by
  obtain ⟨-, -, hindex, -⟩ := exec_keptBut h
  cases i
  case ldI nnn =>
    cases h
    have := nnn.isLt
    simp only [index_setIndex, BitVec.toNat_setWidth]
    omega
  case addI x =>
    cases h
    simp only [index_setIndex, indexSum, BitVec.toNat_ofNat]
    omega
  case ldF x =>
    cases h
    have := (lowNibble (s.readV x)).isLt
    simp only [index_setIndex, glyphAddress, Config.fontBase, BitVec.toNat_ofNat]
    exact (Nat.mod_le _ _).trans (by omega)
  all_goals
    rw [hindex rfl]
    exact hs

/-- A call pushes the advanced `PC`, and no other instruction writes an entry of the stack. -/
theorem exec_stack_le {i : Instr} {s t : State} (h : exec i s = .next t) (hpc : s.pc.toNat ≤ 0x1000)
    (hs : ∀ j : Fin 16, (s.stack[j.val]).toNat ≤ 0x1000) (j : Fin 16) : (t.stack[j.val]).toNat ≤ 0x1000 := by
  by_cases hi : ∃ nnn, i = .call nnn
  · obtain ⟨nnn, rfl⟩ := hi
    obtain ⟨hsp, rfl⟩ := exec_call_next.mp h
    simp only [stack_setPc, stack_push, Vector.getElem_set]
    split
    · exact hpc
    · exact hs j
  · simp only [exec_stack_of_not_call h (not_exists.mp hi)]
    exact hs j

/-- The table of rule R14 bounds `PC`: a jump lands at most at 0x0FFF + 0xFF, a return at a pushed address, and anything
else at most 4 past an address that was fetched. -/
theorem pc_le_of_pcAsInTable {i : Instr} {s t : State} (h : PcAsInTable i s t) (hfetch : s.pc.toNat ≤ 0x0FFE)
    (hret : i = .ret → 0 < s.sp.val) (hstack : ∀ j : Fin 16, (s.stack[j.val]).toNat ≤ 0x1000) :
    t.pc.toNat ≤ 0x10FE := by
  have hnear : ∀ p ∈ [s.pc, s.pc + 2#16, s.pc + 4#16], p.toNat ≤ 0x10FE := by
    simp only [List.forall_mem_cons, BitVec.toNat_add, BitVec.toNat_ofNat]
    exact ⟨by omega, by omega, by omega, nofun⟩
  cases i
  case jp nnn | call nnn =>
    have htarget : t.pc.toNat = nnn.toNat := h
    have := nnn.isLt
    omega
  case jpV0 nnn =>
    have htarget : t.pc.toNat = nnn.toNat + (s.readV 0).toNat := h
    have := nnn.isLt
    have := (s.readV 0).isLt
    omega
  case ret =>
    rw [h (hret rfl)]
    exact (hstack ⟨s.sp.val - 1, by omega⟩).trans (by decide)
  case seKk | sneKk | seVy | sneVy | skp | sknp | ldVxK =>
    refine hnear _ (h ▸ ?_)
    split <;> simp
  all_goals exact hnear _ (h ▸ by simp)

/-- A wait is pending after a tick only if the tick ran `Fx0A`: it entered the wait or kept it, with `PC` and memory as
before the tick. -/
theorem step_awaiting {s t : State} (hs : s.awaitingKey = true → ∃ x, s.AtInstr (.ldVxK x)) (h : step s = .next t)
    (ht : t.awaitingKey = true) : ∃ x, t.AtInstr (.ldVxK x) := by
  obtain ⟨i, u, hat, hu, rfl⟩ := step_next h
  by_cases hi : ∃ x, i = .ldVxK x
  · obtain ⟨x, rfl⟩ := hi
    have hpc : u.decayTimers.pc = s.pc := (pcAfterEveryInstruction s _ _ hat h).trans (if_pos ht)
    have hmem : u.mem = s.entered.mem := exec_mem_eq hu rfl
    exact ⟨x, (AtInstr_congr hpc hmem).mpr hat⟩
  · obtain ⟨hawaiting, -⟩ := exec_keyWait_of_not_ldVxK hu (not_exists.mp hi)
    obtain ⟨x, hx⟩ := hs (hawaiting.symm.trans ht)
    exact absurd ⟨x, AtInstr_unique hat hx⟩ hi

/-- Settles O19: one lemma for each part of the invariant, about the handler of the instruction or about the tick. -/
theorem stepKeepsTheInvariant : Obligations.StepKeepsTheInvariant := by
  intro s t hs hstep
  obtain ⟨i, u, hat, hu, rfl⟩ := step_next hstep
  have hfetch : s.pc.toNat ≤ 0x0FFE := hat.1
  have hadvanced : s.entered.pc.toNat ≤ 0x1000 := by
    simp only [pc_entered, BitVec.toNat_add, BitVec.toNat_ofNat]
    omega
  have hret : i = .ret → 0 < s.sp.val := by
    rintro rfl
    obtain ⟨hsp, -⟩ := exec_ret_next.mp hu
    exact hsp
  exact {
    memWf    := exec_mem_wf (t := u) hu hs.memWf
    indexLe  := exec_index_le (t := u) hu hs.indexLe
    pcLe     := pc_le_of_pcAsInTable (pcAfterEveryInstruction s _ i hat hstep) hfetch hret hs.stackLe
    stackLe  := exec_stack_le (t := u) hu hadvanced hs.stackLe
    awaiting := step_awaiting hs.awaiting hstep }

/-- Settles O18: the reset values are within the bounds, and no wait is pending. -/
theorem resetMeetsTheInvariant : Obligations.ResetMeetsTheInvariant where
  memWf    := Memory.wf_nil
  indexLe  := by decide
  pcLe     := by decide
  stackLe  := by decide
  awaiting := nofun

/-- The invariant holds after reset with any parameters and the load of any admitted program. -/
theorem load_resetWith_inv {params : Config.Params} {p : List Byte} {s : State}
    (h : (State.resetWith params).load p = some s) (inputs : List TickInput) : Inv { s with inputs := inputs } := by
  obtain ⟨-, rfl⟩ := load_eq_some.mp h
  have hreset : Inv State.reset := resetMeetsTheInvariant
  exact {
    memWf    := Memory.wf_storeBytes _ _ (wf_resetWith params)
    indexLe  := hreset.indexLe
    pcLe     := hreset.pcLe
    stackLe  := hreset.stackLe
    awaiting := nofun }

/-- A property that every successful tick keeps holds at the end of every run that meets no fault. -/
theorem run_keeps {P : State → Prop} (hstep : ∀ s t, P s → step s = .next t → P t) {k : Nat} {s t : State} (hs : P s)
    (h : Sys2Proof.core.run k s = .next t) : P t := by
  induction k generalizing s with
  | zero => cases h; exact hs
  | succ k ih =>
    rw [run_succ] at h
    cases hu : step s with
    | next u => rw [hu] at h; exact ih (hstep s u hs hu) h
    | fault f => rw [hu] at h; cases h
    | refused r => rw [hu] at h; cases h

/-- Settles O20: the invariant holds after the load, and every tick of the run keeps it (O19). -/
theorem reachableStatesMeetTheInvariant : Obligations.ReachableStatesMeetTheInvariant := by
  intro params p inputs s t k hload hrun
  exact run_keeps stepKeepsTheInvariant (load_resetWith_inv hload inputs) hrun

/-! ### What no instruction reads (rules R20, R23, R24, R25, R177) -/

/-- The fault with its final state changed by `f`. -/
def Fault.mapFinal (f : State → State) : Fault → Fault
  | .outOfBoundsFetch s => .outOfBoundsFetch (f s)
  | .outOfBoundsData s => .outOfBoundsData (f s)
  | .illegalInstruction s => .illegalInstruction (f s)
  | .stackUnderflow s => .stackUnderflow (f s)
  | .stackOverflow s => .stackOverflow (f s)

/-- The outcome of the same kind, with the state it leaves changed by `f`. -/
def mapState (f : State → State) : Host.Outcome State Fault Refusal → Host.Outcome State Fault Refusal
  | .next s => .next (f s)
  | .fault r => .fault (r.mapFinal f)
  | .refused r => .refused r

/-- The state with other values of `awaiting_key` and `prevkey`. -/
def State.withKeyWait (b : Bool) (ks : Keys) (s : State) : State := { s with awaitingKey := b, prevkey := ks }

/-- Changing the key-wait state commutes with every handler but that of `Fx0A`; a bound is checked on fields it
leaves alone. -/
theorem exec_withKeyWait {i : Instr} (hi : ∀ x, i ≠ .ldVxK x) (b : Bool) (ks : Keys) (s : State) :
    exec i (s.withKeyWait b ks) = mapState (State.withKeyWait b ks) (exec i s) := by
  cases i
  case ldVxK x => exact absurd rfl (hi x)
  case ret | call => simp only [exec, execRet, execCall, apply_dite (mapState (State.withKeyWait b ks))]; rfl
  case drw | ldB | storeRegs | loadRegs =>
    simp only [exec, execDrw, execLdB, execStoreRegs, execLoadRegs, apply_ite (mapState (State.withKeyWait b ks))]
    rfl
  all_goals rfl

/-- Settles O22: the statement writes out the outcome that `exec_withKeyWait` gives. -/
theorem onlyKeyWaitTouchesItsState : Obligations.OnlyKeyWaitTouchesItsState := by
  intro i s b ks hi
  refine (exec_withKeyWait hi b ks s).trans ?_
  cases exec i s with
  | next t => rfl
  | fault f => cases f <;> rfl
  | refused r => rfl

/-- Settles O23: the changed state passes the same checks and takes the same branch of the key wait, so the same handler
completes from it; only `Fx18`, `00E0` and `Dxyn` write either of the two elements, over whatever it held. -/
theorem nothingReadsSoundTimerOrDirty : Obligations.NothingReadsSoundTimerOrDirty := by
  intro i s t b d h
  cases i
  case ret => obtain ⟨hsp, rfl⟩ := exec_ret_next.mp h; exact ⟨_, exec_ret_next.mpr ⟨hsp, rfl⟩, rfl⟩
  case call => obtain ⟨hsp, rfl⟩ := exec_call_next.mp h; exact ⟨_, exec_call_next.mpr ⟨hsp, rfl⟩, rfl⟩
  case drw => obtain ⟨hfit, rfl⟩ := exec_drw_next.mp h; exact ⟨_, exec_drw_next.mpr ⟨hfit, rfl⟩, rfl⟩
  case ldB => obtain ⟨hfit, rfl⟩ := exec_ldB_next.mp h; exact ⟨_, exec_ldB_next.mpr ⟨hfit, rfl⟩, rfl⟩
  case storeRegs => obtain ⟨hfit, rfl⟩ := exec_storeRegs_next.mp h; exact ⟨_, exec_storeRegs_next.mpr ⟨hfit, rfl⟩, rfl⟩
  case loadRegs => obtain ⟨hfit, rfl⟩ := exec_loadRegs_next.mp h; exact ⟨_, exec_loadRegs_next.mpr ⟨hfit, rfl⟩, rfl⟩
  case ldVxK =>
    obtain ⟨ha, rfl⟩ | ⟨ha, hk, rfl⟩ | ⟨ha, k, hk, rfl⟩ := exec_ldVxK_next.mp h
    · exact ⟨_, exec_ldVxK_next.mpr (.inl ⟨ha, rfl⟩), rfl⟩
    · exact ⟨_, exec_ldVxK_next.mpr (.inr (.inl ⟨ha, hk, rfl⟩)), rfl⟩
    · exact ⟨_, exec_ldVxK_next.mpr (.inr (.inr ⟨ha, k, hk, rfl⟩)), rfl⟩
  all_goals cases h; exact ⟨_, rfl, rfl⟩

end Sys2Proof.Machine
end

section
/-! ## Memory access, drawing and the spec's words (rules R40, R48, R52, R146 to R148, R160 to R163, R193) -/

namespace Sys2Proof.Machine

/-! ### The bound of rule R48 -/

/-- Every access past 0x0FFF faults with nothing written (rule R193). -/
theorem exec_of_accessPastEnd {i : Instr} {s : State} (h : AccessPastEnd i s) :
    exec i s = .fault (.outOfBoundsData s) := by
  obtain ⟨x, y, n, rfl, hn, hend⟩ | ⟨x, rfl, hend⟩ | ⟨x, rfl | rfl, hend⟩ := h <;>
    exact if_neg (by rw [blockFits_iff]; omega)

theorem blockFits_succ_iff {base : Word} {len : Nat} :
    blockFits base (len + 1) = true ↔ base.toNat + len ≤ 0x0FFF := by
  rw [blockFits_iff]
  omega

/-! ### BCD (rule R146) -/

@[simp] theorem length_bcdDigits (b : Byte) : (bcdDigits b).length = 3 := rfl

/-- The three digits fit in a byte each, so `bcdDigits` truncates none. -/
theorem map_toNat_bcdDigits (b : Byte) :
    (bcdDigits b).map BitVec.toNat = [b.toNat / 100, b.toNat / 10 % 10, b.toNat % 10] := by
  have := b.isLt
  simp only [bcdDigits, List.map_cons, List.map_nil, BitVec.toNat_ofNat, List.cons.injEq, and_true]
  omega

/-- The bytes that a BCD store leaves in its block, as numbers. -/
theorem some_toNat_byteAt_ldB {x : RegIdx} {s t : State} (h : exec (.ldB x) s = .next t) {j : Nat} (hj : j < 3) :
    some (t.byteAt (s.index.toNat + j)).toNat =
      [(s.readV x).toNat / 100, (s.readV x).toNat / 10 % 10, (s.readV x).toNat % 10][j]? := by
  obtain ⟨hfit, rfl⟩ := exec_ldB_next.mp h
  have hend := blockFits_succ_iff.mp hfit
  have hspace : s.index.toNat + (bcdDigits (s.readV x)).length ≤ Config.memSize := by
    rw [length_bcdDigits, Config.memSize]
    omega
  rw [← map_toNat_bcdDigits, List.getElem?_map,
    ← Memory.some_read_storeBytes s.mem _ j (bcdDigits (s.readV x)) hj hspace]
  rfl

/-- Settles O43: a block that ends by 0x0FFF is stored, a digit in each byte; any other raises the fault of
`AccessPastEnd`. -/
theorem bcdWritesThreeDigits : Obligations.BcdWritesThreeDigits := by
  intro x s
  refine ⟨fun hend => ?_, fun hend => exec_of_accessPastEnd (.inr (.inl ⟨x, rfl, hend⟩))⟩
  have hexec := (exec_ldB_next (x := x)).mpr ⟨blockFits_succ_iff.mpr hend, rfl⟩
  have hdigit {j : Nat} (hj : j < 3) := some_toNat_byteAt_ldB hexec hj
  refine ⟨_, hexec, Option.some.inj (hdigit (j := 0) (by decide)), Option.some.inj (hdigit (j := 1) (by decide)),
    Option.some.inj (hdigit (j := 2) (by decide)), fun a ha => ?_, keptBut_setMem s _⟩
  exact Memory.read_storeBytes_other _ _ a _ ha

/-! ### Block transfers (rules R147, R148) -/

/-- A block store leaves `V[r]` at `I + r`. -/
theorem byteAt_storeRegs {x r : RegIdx} {s t : State} (h : exec (.storeRegs x) s = .next t) (hr : r ≤ x) :
    t.byteAt (s.index.toNat + r.val) = s.readV r := by
  obtain ⟨hfit, rfl⟩ := exec_storeRegs_next.mp h
  have hend := blockFits_succ_iff.mp hfit
  have hlen := length_bankUpTo s x
  have hrx := Fin.le_def.mp hr
  rw [byteAt_setMem, Memory.read_storeBytes_inside _ _ _ _ (by omega) (by simp only [Config.memSize]; omega),
    getElem_bankUpTo]

/-- Settles O44: a block that ends by 0x0FFF is stored (`byteAt_storeRegs`); any other raises the fault of
`AccessPastEnd`. -/
theorem blockStoreWritesTheBank : Obligations.BlockStoreWritesTheBank := by
  intro x s
  refine ⟨fun hend => ?_, fun hend => exec_of_accessPastEnd (.inr (.inr ⟨x, .inl rfl, hend⟩))⟩
  have hexec := exec_storeRegs_next.mpr ⟨blockFits_succ_iff.mpr hend, rfl⟩
  refine ⟨_, hexec, fun r => byteAt_storeRegs hexec, fun a ha => ?_, keptBut_setMem s _⟩
  exact Memory.read_storeBytes_other _ _ a _ (by rw [length_bankUpTo]; omega)

/-- Settles O45: the loaded bank is `bankLoaded`, register by register; a block past 0x0FFF raises the fault of
`AccessPastEnd`. -/
theorem blockLoadReadsTheBank : Obligations.BlockLoadReadsTheBank := by
  intro x s
  refine ⟨fun hend => ?_, fun hend => exec_of_accessPastEnd (.inr (.inr ⟨x, .inr rfl, hend⟩))⟩
  refine ⟨_, exec_loadRegs_next.mpr ⟨blockFits_succ_iff.mpr hend, rfl⟩, fun r hr => ?_, fun r hr => ?_,
    keptBut_setBank s _⟩
  · rw [readV_setBank, getElem_bankLoaded, if_pos (Fin.le_def.mp hr)]
  · rw [readV_setBank, getElem_bankLoaded, if_neg (Nat.not_le.mpr hr)]

/-- Settles O47: the block ends by 0x0FFF, so the fetch is within its bound and reads two neighbouring bytes that
`byteAt_storeRegs` gives. -/
theorem storedBytesAreFetched : Obligations.StoredBytesAreFetched := by
  intro x k l s t u h hl hlx hmem hpc
  obtain ⟨hfit, -⟩ := exec_storeRegs_next.mp h
  have hend := blockFits_succ_iff.mp hfit
  have hlx' := Fin.le_def.mp hlx
  have hbyte (a : Nat) : u.byteAt a = t.byteAt a := by rw [State.byteAt, hmem, State.byteAt]
  have hhi : u.byteAt u.pc.toNat = s.readV k := by
    rw [hpc, hbyte, byteAt_storeRegs h (Fin.le_def.mpr (by omega))]
  have hlo : u.byteAt (u.pc.toNat + 1) = s.readV l := by
    rw [hpc, Nat.add_assoc, ← hl, hbyte, byteAt_storeRegs h hlx]
  rw [fetchWord_eq, if_pos (by omega), State.wordAt, hhi, hlo]

/-! ### Drawing (rules R162, R163) -/

/-- Settles O49: what a draw leaves on the screen and reports is `drawn_spec`; a sprite past 0x0FFF raises the fault of
`AccessPastEnd`. -/
theorem drawFlipsTheCoveredPixels : Obligations.DrawFlipsTheCoveredPixels := by
  intro x y n s
  refine ⟨fun hfit => ?_, fun hn hend => exec_of_accessPastEnd (.inl ⟨x, y, n, rfl, hn, hend⟩)⟩
  obtain ⟨hpixels, hhit⟩ := drawn_spec s x y n
  refine ⟨_, exec_drw_next.mpr ⟨blockFits_iff.mpr hfit, rfl⟩, hpixels, fun hon => ?_, fun hoff => ?_, rfl,
    fun r hr => readV_setV_other _ _ hr, keptBut_drawn s _ _⟩
  · rw [readV_setV_same, flagByte_eq_one, hhit]
    exact hon
  · rw [readV_setV_same, flagByte_eq_zero, ← Bool.not_eq_true, hhit]
    exact hoff

/-! ### The words the spec writes out -/

/-- Settles O1: ten fixed words run through the decoder. -/
theorem specWordsDecode : Obligations.SpecWordsDecode := by
  unfold Obligations.SpecWordsDecode
  decide

end Sys2Proof.Machine
end

section
/-! ## The decoder and the encoder (rules R60 to R68, R84, R101) -/

namespace Sys2Proof

/-! ### Decoding what the encoder writes -/

/-- Row 4 takes the family-0 words that rows 1 to 3 do not name (rule R65). -/
theorem decodeFamily0_of_wellFormed {nnn : Addr12} (h : (Instr.sys nnn).wellFormed = true) :
    decodeFamily0 nnn = .sys nnn := by
  simp only [Instr.wellFormed, Bool.and_eq_true, bne_iff_ne] at h
  obtain ⟨⟨hnop, hcls⟩, hret⟩ := h
  unfold decodeFamily0
  split
  case h_4 => rfl
  all_goals contradiction

/-- Each format puts its operands where the field extraction looks for them, so the selectors pick
the instruction's row. -/
theorem selectInstr_encode {i : Instr} (h : i.wellFormed = true) : selectInstr (fieldsOf (encode i)) = some i := by
  cases i
  case nop | cls | ret => rfl
  case sys nnn => rw [encode, fieldsOf_nnn]; exact congrArg some (decodeFamily0_of_wellFormed h)
  case jp | call | ldI | jpV0 => rw [encode, fieldsOf_nnn]; rfl
  case seKk | sneKk | ldKk | addKk | rnd | skp | sknp | ldVxDt | ldVxK | ldDt | ldSt | addI | ldF | ldB | storeRegs |
      loadRegs => rw [encode, fieldsOf_kk]; rfl
  case seVy | ldVy | orVy | andVy | xorVy | addVy | subVy | shr | subnVy | shl | sneVy | drw =>
    rw [encode, fieldsOf_xyn]; rfl

theorem decodeWord_encode {i : Instr} (h : i.wellFormed = true) : decodeWord (encode i) = .ok i :=
  decodeWord_eq_ok.mpr (selectInstr_encode h)

/-- Settles O2: the two bytes make the word of the encoding, whose fields select the instruction. -/
theorem decodeOfEncodeIsTheInstruction : Obligations.DecodeOfEncodeIsTheInstruction := by
  intro i rest h
  rw [encodeBytes, decodeBytes_wordBytes, decodeWord_encode h]
  rfl

/-! ### Encoding what the decoder reads -/

/-- The words that the fields of a decoder record make, one for each format. -/
inductive Spells (f : Fields) : Word → Prop
  | nnn : Spells f (f.family ++ f.nnn)
  | kk : Spells f (f.family ++ nibble f.x ++ f.kk)
  | xyn : Spells f (f.family ++ nibble f.x ++ nibble f.y ++ f.n)

/-- The fields of a word make that word only. -/
theorem eq_of_spells_fieldsOf {w v : Word} (h : Spells (fieldsOf w) v) : v = w := by
  cases h with
  | nnn => exact word_of_family_nnn w
  | kk => exact word_of_family_x_kk w
  | xyn => exact word_of_family_x_y_n w

theorem encode_decodeFamily0 (nnn : Addr12) :
    encode (decodeFamily0 nnn) = 0x0#4 ++ nnn ∧ (decodeFamily0 nnn).wellFormed = true := by
  unfold decodeFamily0
  split
  case h_4 hnop hcls hret =>
    refine ⟨rfl, ?_⟩
    simp only [Instr.wellFormed, Bool.and_eq_true, bne_iff_ne]
    exact ⟨⟨hnop, hcls⟩, hret⟩
  all_goals exact ⟨rfl, rfl⟩

theorem encode_of_decodeFamily8 {x y : RegIdx} {n : Nibble} {i : Instr} (h : decodeFamily8 x y n = some i) :
    encode i = 0x8#4 ++ nibble x ++ nibble y ++ n ∧ i.wellFormed = true := by
  unfold decodeFamily8 at h
  split at h <;> cases h <;> exact ⟨rfl, rfl⟩

theorem encode_of_decodeFamilyE {x : RegIdx} {kk : Byte} {i : Instr} (h : decodeFamilyE x kk = some i) :
    encode i = 0xE#4 ++ nibble x ++ kk ∧ i.wellFormed = true := by
  unfold decodeFamilyE at h
  split at h <;> cases h <;> exact ⟨rfl, rfl⟩

theorem encode_of_decodeFamilyF {x : RegIdx} {kk : Byte} {i : Instr} (h : decodeFamilyF x kk = some i) :
    encode i = 0xF#4 ++ nibble x ++ kk ∧ i.wellFormed = true := by
  unfold decodeFamilyF at h
  split at h <;> cases h <;> exact ⟨rfl, rfl⟩

/-- The last branch of `selectInstr` is family 0xF only. -/
theorem family_eq_F : ∀ f : Nibble, f ∉ [0x0#4, 0x1#4, 0x2#4, 0x3#4, 0x4#4, 0x5#4, 0x6#4, 0x7#4, 0x8#4, 0x9#4, 0xA#4,
    0xB#4, 0xC#4, 0xD#4, 0xE#4] → f = 0xF#4 := by
  decide

/-- What some fields select is encoded with those fields, in the format of the family: case `h_1` is family 0x0 and so
on up to `h_16`, family 0xF. -/
theorem spells_encode_of_selectInstr {f : Fields} {i : Instr} (h : selectInstr f = some i) :
    Spells f (encode i) ∧ i.wellFormed = true := by
  obtain ⟨family, x, y, n, kk, nnn⟩ := f
  simp only [selectInstr] at h
  split at h
  case h_1 =>
    obtain ⟨hword, hwf⟩ := encode_decodeFamily0 nnn
    cases h
    exact ⟨hword ▸ .nnn, hwf⟩
  case h_2 | h_3 | h_11 | h_12 => cases h; exact ⟨.nnn, rfl⟩
  case h_4 | h_5 | h_7 | h_8 | h_13 => cases h; exact ⟨.kk, rfl⟩
  case h_6 | h_10 =>
    split at h <;> cases h
    next hn => subst hn; exact ⟨.xyn, rfl⟩
  case h_9 =>
    obtain ⟨hword, hwf⟩ := encode_of_decodeFamily8 h
    exact ⟨hword ▸ .xyn, hwf⟩
  case h_14 => cases h; exact ⟨.xyn, rfl⟩
  case h_15 =>
    obtain ⟨hword, hwf⟩ := encode_of_decodeFamilyE h
    exact ⟨hword ▸ .kk, hwf⟩
  case h_16 =>
    obtain rfl : family = 0xF#4 := family_eq_F family (by simp_all)
    obtain ⟨hword, hwf⟩ := encode_of_decodeFamilyF h
    exact ⟨hword ▸ .kk, hwf⟩

/-- Settles O3: the instruction is encoded with the fields of the word, and those make the word. -/
theorem encodeOfDecodeIsTheWord : Obligations.EncodeOfDecodeIsTheWord := by
  intro w i h
  obtain ⟨hspells, hwf⟩ := spells_encode_of_selectInstr (decodeWord_eq_ok.mp h)
  exact ⟨eq_of_spells_fieldsOf hspells, hwf⟩

/-! ### The illegal words (rule R67) -/

/-- The fields of an illegal word, row by row of the table of rule R67. -/
def Fields.Illegal (f : Fields) : Prop :=
  (f.family = 0x5#4 ∧ f.n ≠ 0x0#4) ∨
  (f.family = 0x9#4 ∧ f.n ≠ 0x0#4) ∨
  (f.family = 0x8#4 ∧ f.n ∈ [0x8#4, 0x9#4, 0xA#4, 0xB#4, 0xC#4, 0xD#4, 0xF#4]) ∨
  (f.family = 0xE#4 ∧ f.kk ∉ [0x9E#8, 0xA1#8]) ∨
  (f.family = 0xF#4 ∧ f.kk ∉ [0x07#8, 0x0A#8, 0x15#8, 0x18#8, 0x1E#8, 0x29#8, 0x33#8, 0x55#8, 0x65#8])

theorem decodeFamily8_eq_none {x y : RegIdx} {n : Nibble} :
    decodeFamily8 x y n = none ↔ n ∈ [0x8#4, 0x9#4, 0xA#4, 0xB#4, 0xC#4, 0xD#4, 0xF#4] := by
  unfold decodeFamily8
  split
  case h_10 =>
    refine iff_of_true rfl ?_
    simp only [imp_false, List.mem_cons, List.not_mem_nil, or_false] at *
    bv_omega
  all_goals simp

theorem decodeFamilyE_eq_none {x : RegIdx} {kk : Byte} : decodeFamilyE x kk = none ↔ kk ∉ [0x9E#8, 0xA1#8] := by
  unfold decodeFamilyE
  split
  case h_3 => simp_all
  all_goals simp

theorem decodeFamilyF_eq_none {x : RegIdx} {kk : Byte} : decodeFamilyF x kk = none ↔
    kk ∉ [0x07#8, 0x0A#8, 0x15#8, 0x18#8, 0x1E#8, 0x29#8, 0x33#8, 0x55#8, 0x65#8] := by
  unfold decodeFamilyF
  split
  case h_10 => simp_all
  all_goals simp

theorem selectInstr_eq_none {f : Fields} : selectInstr f = none ↔ f.Illegal := by
  obtain ⟨family, x, y, n, kk, nnn⟩ := f
  simp only [selectInstr, Fields.Illegal]
  split
  case h_16 =>
    obtain rfl : family = 0xF#4 := family_eq_F family (by simp_all)
    simp [decodeFamilyF_eq_none]
  all_goals simp [decodeFamily8_eq_none, decodeFamilyE_eq_none]

/-- A word is refused, under its own name, exactly when its fields are in the table of rule R67. -/
theorem decodeWord_eq_illegal {w : Word} : decodeWord w = .error (.illegal w) ↔ (fieldsOf w).Illegal := by
  rw [decodeWord_eq_error, selectInstr_eq_none, and_iff_left rfl]

/-- Settles O5: a word is refused exactly when its fields select nothing, and the two selectors say when that is. -/
theorem illegalWordsAreExactlyThoseListed : Obligations.IllegalWordsAreExactlyThoseListed :=
  fun _ => decodeWord_eq_illegal

/-! ### The table of rule R64 -/

/-- A word that a row selects agrees with the row's pattern on every field that the mask covers. -/
theorem OpcodeRow.extract_of_selects {r : OpcodeRow} {w : Word} {start len : Nat} (h : r.selects w = true)
    (hmask : r.mask.extractLsb' start len = BitVec.allOnes len) :
    w.extractLsb' start len = r.pattern.extractLsb' start len := by
  rw [← beq_iff_eq.mp h, BitVec.extractLsb'_and, hmask, BitVec.and_allOnes]

/-- Every mask covers the family, and in a family with a secondary selector it covers that selector. -/
theorem mask_covers_selectors : ∀ r ∈ opcodeTable, r.mask.extractLsb' 12 4 = BitVec.allOnes 4 ∧
    ((fieldsOf r.pattern).family ∈ [0x5#4, 0x8#4, 0x9#4] → r.mask.extractLsb' 0 4 = BitVec.allOnes 4) ∧
    ((fieldsOf r.pattern).family ∈ [0xE#4, 0xF#4] → r.mask.extractLsb' 0 8 = BitVec.allOnes 8) := by
  decide

/-- No pattern of the table is itself an illegal word. -/
theorem pattern_not_illegal : ∀ r ∈ opcodeTable, ¬(fieldsOf r.pattern).Illegal := by
  unfold Fields.Illegal
  decide

/-- A word that some row selects has the selectors of the row's pattern, so it is not illegal. -/
theorem not_illegal_of_selects {r : OpcodeRow} {w : Word} (hr : r ∈ opcodeTable) (h : r.selects w = true) :
    ¬(fieldsOf w).Illegal := by
  obtain ⟨hmask, hmaskN, hmaskKk⟩ := mask_covers_selectors r hr
  have hfamily : (fieldsOf w).family = (fieldsOf r.pattern).family := OpcodeRow.extract_of_selects h hmask
  have hn (hf : (fieldsOf r.pattern).family ∈ [0x5#4, 0x8#4, 0x9#4]) : (fieldsOf w).n = (fieldsOf r.pattern).n :=
    OpcodeRow.extract_of_selects h (hmaskN hf)
  have hkk (hf : (fieldsOf r.pattern).family ∈ [0xE#4, 0xF#4]) : (fieldsOf w).kk = (fieldsOf r.pattern).kk :=
    OpcodeRow.extract_of_selects h (hmaskKk hf)
  intro hillegal
  refine pattern_not_illegal r hr ?_
  unfold Fields.Illegal at hillegal ⊢
  rw [hfamily] at hillegal
  obtain ⟨hf, hsel⟩ | ⟨hf, hsel⟩ | ⟨hf, hsel⟩ | ⟨hf, hsel⟩ | ⟨hf, hsel⟩ := hillegal
  · exact .inl ⟨hf, hn (by simp [hf]) ▸ hsel⟩
  · exact .inr (.inl ⟨hf, hn (by simp [hf]) ▸ hsel⟩)
  · exact .inr (.inr (.inl ⟨hf, hn (by simp [hf]) ▸ hsel⟩))
  · exact .inr (.inr (.inr (.inl ⟨hf, hkk (by simp [hf]) ▸ hsel⟩)))
  · exact .inr (.inr (.inr (.inr ⟨hf, hkk (by simp [hf]) ▸ hsel⟩)))

/-- Patterns of two rows that some word meets agree under each other's masks. -/
theorem OpcodeRow.patterns_agree {p q : OpcodeRow} {w : Word} (hp : p.selects w = true) (hq : q.selects w = true) :
    p.pattern &&& q.mask = q.pattern &&& p.mask := by
  rw [← beq_iff_eq.mp hp, ← beq_iff_eq.mp hq, BitVec.and_assoc, BitVec.and_assoc, BitVec.and_comm p.mask]

/-- Rows that agree so are rows 1 to 3 against row 4 (rule R65). -/
theorem overlap_of_patterns_agree : ∀ p ∈ opcodeTable, ∀ q ∈ opcodeTable,
    p.pattern &&& q.mask = q.pattern &&& p.mask → p.row < q.row → (p.row = 1 ∨ p.row = 2 ∨ p.row = 3) ∧ q.row = 4 := by
  decide

/-- Two rows match one word only where rows 1 to 3 precede row 4 (rule R65). -/
theorem rows_of_overlap {p q : OpcodeRow} {w : Word} (hp : p ∈ opcodeTable) (hq : q ∈ opcodeTable)
    (hpw : p.selects w = true) (hqw : q.selects w = true) (hlt : p.row < q.row) :
    (p.row = 1 ∨ p.row = 2 ∨ p.row = 3) ∧ q.row = 4 :=
  overlap_of_patterns_agree p hp q hq (OpcodeRow.patterns_agree hpw hqw) hlt

open Laws.EncodesOwnRow in
/-- The laws of `Laws.EncodesOwnRow`, one for each instruction, as one. -/
theorem encodesOwnRow : ∀ i : Instr, Statement i
  | .nop => nop | .cls => cls | .ret => ret | .sys _ => sys _ | .jp _ => jp _ | .call _ => call _
  | .seKk _ _ => seKk _ _ | .sneKk _ _ => sneKk _ _ | .seVy _ _ => seVy _ _ | .ldKk _ _ => ldKk _ _
  | .addKk _ _ => addKk _ _ | .ldVy _ _ => ldVy _ _ | .orVy _ _ => orVy _ _ | .andVy _ _ => andVy _ _
  | .xorVy _ _ => xorVy _ _ | .addVy _ _ => addVy _ _ | .subVy _ _ => subVy _ _ | .shr _ _ => shr _ _
  | .subnVy _ _ => subnVy _ _ | .shl _ _ => shl _ _ | .sneVy _ _ => sneVy _ _ | .ldI _ => ldI _ | .jpV0 _ => jpV0 _
  | .rnd _ _ => rnd _ _ | .drw _ _ _ => drw _ _ _ | .skp _ => skp _ | .sknp _ => sknp _ | .ldVxDt _ => ldVxDt _
  | .ldVxK _ => ldVxK _ | .ldDt _ => ldDt _ | .ldSt _ => ldSt _ | .addI _ => addI _ | .ldF _ => ldF _
  | .ldB _ => ldB _ | .storeRegs _ => storeRegs _ | .loadRegs _ => loadRegs _

theorem row_sub_one_lt (i : Instr) : i.row - 1 < opcodeTable.length := by
  cases i <;> exact of_decide_eq_true rfl

/-- The row an instruction belongs to stands in the table and selects its encoding. -/
theorem ownRow_selects_encode (i : Instr) : ∃ r ∈ opcodeTable, r.row = i.row ∧ r.selects (encode i) = true :=
  ⟨_, List.getElem_mem (row_sub_one_lt i), encodesOwnRow i _ (List.getElem?_eq_getElem (row_sub_one_lt i))⟩

theorem opcodeTable_rows_rise : opcodeTable.Pairwise (·.row < ·.row) := by decide

/-- The first row that matches a word has the lowest number of all that do. -/
theorem row_find_le {p r : OpcodeRow} {w : Word} (hp : opcodeTable.find? (·.selects w) = some p) (hr : r ∈ opcodeTable)
    (hrw : r.selects w = true) : p.row ≤ r.row := by
  obtain ⟨-, before, after, htable, hbefore⟩ := List.find?_eq_some_iff_append.mp hp
  have hrise := opcodeTable_rows_rise
  rw [htable] at hr hrise
  obtain ⟨-, hafter, -⟩ := List.pairwise_append.mp hrise
  obtain hr | hr := List.mem_append.mp hr
  · have hnot := hbefore r hr
    simp [hrw] at hnot
  · obtain rfl | hr := List.mem_cons.mp hr
    · exact le_rfl
    · exact (List.rel_of_pairwise_cons hafter hr).le

/-- Rows 1 to 3 test every bit, and their words decode to their instructions. -/
theorem exact_rows_decode : ∀ r ∈ opcodeTable, r.row = 1 ∨ r.row = 2 ∨ r.row = 3 →
    r.mask = BitVec.allOnes 16 ∧ (decodeWord r.pattern).toOption.map Instr.row = some r.row := by
  decide

theorem row_decodeWord_of_exact_row {r : OpcodeRow} {w : Word} (hr : r ∈ opcodeTable)
    (hrow : r.row = 1 ∨ r.row = 2 ∨ r.row = 3) (h : r.selects w = true) :
    (decodeWord w).toOption.map Instr.row = some r.row := by
  obtain ⟨hmask, hdecode⟩ := exact_rows_decode r hr hrow
  have hw : w &&& r.mask = r.pattern := beq_iff_eq.mp h
  rw [hmask, BitVec.and_allOnes] at hw
  rwa [hw]

/-- The first row that matches a word that decodes is the row of the instruction: a row before it could only be one of
rows 1 to 3, and those are the rows of what they decode to. -/
theorem row_find_of_decodeWord_ok {w : Word} {i : Instr} (h : decodeWord w = .ok i) :
    (opcodeTable.find? (·.selects w)).map (·.row) = some i.row := by
  obtain ⟨own, hown, hownRow, hownSel⟩ := ownRow_selects_encode i
  rw [(encodeOfDecodeIsTheWord w i h).1] at hownSel
  have hsome : (opcodeTable.find? (·.selects w)).isSome := List.find?_isSome.mpr ⟨own, hown, hownSel⟩
  obtain ⟨p, hp⟩ := Option.isSome_iff_exists.mp hsome
  have hpMem := List.mem_of_find?_eq_some hp
  have hpSel : p.selects w = true := List.find?_some (p := (OpcodeRow.selects · w)) hp
  rw [hp, Option.map_some, Option.some_inj, ← hownRow]
  obtain hlt | heq := (row_find_le hp hown hownSel).lt_or_eq
  · have hrow := row_decodeWord_of_exact_row hpMem (rows_of_overlap hpMem hown hpSel hownSel hlt).1 hpSel
    rw [h] at hrow
    exact (Option.some.inj hrow).symm.trans hownRow.symm
  · exact heq

/-- No row matches an illegal word, and some row matches any other. -/
theorem find_eq_none_iff {w : Word} :
    opcodeTable.find? (·.selects w) = none ↔ decodeWord w = .error (.illegal w) := by
  constructor
  · intro hnone
    cases hd : decodeWord w with
    | ok i => simpa [hnone] using row_find_of_decodeWord_ok hd
    | error e => rw [(decodeWord_eq_error.mp hd).2]
  · intro hd
    refine List.find?_eq_none.mpr fun r hr hsel => ?_
    exact not_illegal_of_selects hr hsel (decodeWord_eq_illegal.mp hd)

theorem row_find_eq_row_decodeWord (w : Word) :
    (opcodeTable.find? (·.selects w)).map (·.row) = (decodeWord w).toOption.map Instr.row := by
  cases hd : decodeWord w with
  | ok i => exact row_find_of_decodeWord_ok hd
  | error e =>
    obtain ⟨-, rfl⟩ := decodeWord_eq_error.mp hd
    rw [find_eq_none_iff.mpr hd]
    rfl

/-- Settles O4: what is decoded is encoded in its own row, no other row but one of rows 1 to 3 could come first, and a
word that some row matches has that row's selectors. -/
theorem decoderTakesFirstMatchingRow : Obligations.DecoderTakesFirstMatchingRow :=
  ⟨row_find_eq_row_decodeWord, fun _ => find_eq_none_iff, fun _ _ _ hp hq hpw hqw => rows_of_overlap hp hq hpw hqw,
    fun _ _ => rfl⟩

end Sys2Proof

namespace Sys2Proof.Machine

/-! ### Every word and every instruction has a meaning (rules R64, R68) -/

theorem exec_ne_refused (i : Instr) (s : State) (r : Refusal) : exec i s ≠ .refused r := by
  obtain ⟨t, h⟩ | ⟨-, -, h⟩ | ⟨-, -, h⟩ | ⟨-, h⟩ := exec_cases i s <;> simp [h]

theorem finishTick_eq_refused {o : Host.Outcome State Fault Refusal} {r : Refusal} :
    finishTick o = .refused r ↔ o = .refused r := by
  cases o <;> simp [finishTick]

/-- Settles O12: the outcomes of `exec_cases` and of `step_cases` hold no refusal. -/
theorem nothingIsRefused : Obligations.NothingIsRefused := by
  refine ⟨fun s r => ?_, exec_ne_refused⟩
  obtain ⟨-, h⟩ | ⟨-, -, h⟩ | ⟨i, -, h⟩ := step_cases s
  · simp [h]
  · simp [h]
  · rw [h, Ne, finishTick_eq_refused]
    exact exec_ne_refused i _ r

/-! ### The no-ops (rules R84, R101) -/

/-- A family-0 word other than 00E0 and 00EE is a no-op (rule R68). -/
theorem decodeWord_noOp {w : Word} (hfamily : (fieldsOf w).family = 0x0#4) (hcls : (fieldsOf w).nnn ≠ 0x0E0#12)
    (hret : (fieldsOf w).nnn ≠ 0x0EE#12) : decodeWord w = .ok .nop ∨ ∃ nnn, decodeWord w = .ok (.sys nnn) := by
  have hselect : selectInstr (fieldsOf w) = some (decodeFamily0 (fieldsOf w).nnn) := by
    rw [selectInstr, hfamily]
    rfl
  simp only [decodeWord_eq_ok, hselect, Option.some_inj]
  unfold decodeFamily0
  split
  · exact .inl rfl
  · contradiction
  · contradiction
  · exact .inr ⟨_, rfl⟩

/-- A timer's decay as a number, stuck at 0 (rule R202). -/
theorem decayed_eq_ofNat (b : Byte) : decayed b = BitVec.ofNat 8 (b.toNat - 1) := by
  rw [← decayed_toNat, BitVec.ofNat_toNat, BitVec.setWidth_eq]

/-- The tick of an instruction that completes with nothing written. -/
theorem step_of_exec_entered {s : State} {i : Instr} (hi : s.AtInstr i) (h : exec i s.entered = .next s.entered) :
    step s = .next { s.entered with dt := BitVec.ofNat 8 (s.dt.toNat - 1), st := BitVec.ofNat 8 (s.st.toNat - 1) } := by
  rw [step_at hi, h, ← decayed_eq_ofNat, ← decayed_eq_ofNat]
  rfl

/-- Settles O27: such a word decodes to `NOP` or to `SYS`, and both handlers answer the state they get. -/
theorem noOpsOnlyAdvanceAndDecay : Obligations.NoOpsOnlyAdvanceAndDecay := by
  refine ⟨fun s => rfl, fun nnn s => rfl, fun s hpc hfamily hcls hret => ?_⟩
  obtain hdecode | ⟨nnn, hdecode⟩ := decodeWord_noOp hfamily hcls hret
  · exact step_of_exec_entered ⟨hpc, hdecode⟩ rfl
  · exact step_of_exec_entered ⟨hpc, hdecode⟩ rfl

end Sys2Proof.Machine
end

section
/-! ## The cycle: dispatch, fetch, result record, zero memory, the pending wait (rules R80 to R87, R133, R176, R177) -/

namespace Sys2Proof.Machine

/-! ### The inputs of a tick (rule R81) -/

theorem nextInput_of_cons {s : State} {inp : TickInput} {rest : List TickInput} (h : s.inputs = inp :: rest) :
    s.nextInput = inp := by
  rw [State.nextInput, h]

theorem nextInput_of_nil {s : State} (h : s.inputs = []) :
    s.nextInput =
      { redrawn := Config.freeRedrawn s.ticks, keys := Config.freeKeys s.ticks, rnd := Config.freeRnd s.ticks } := by
  rw [State.nextInput, h]

@[simp] theorem key_entered (s : State) : s.entered.key = s.nextInput.keys := rfl

@[simp] theorem rnd_entered (s : State) : s.entered.rnd = s.nextInput.rnd := rfl

@[simp] theorem inputs_entered (s : State) : s.entered.inputs = s.inputs.tail := rfl

/-! ### Dispatch (rules R83, R85, R86) -/

/-- The two bytes at an address decode as the word they make (rule R40). -/
theorem decodeBytes_readBytes (s : State) (a : Nat) :
    decodeBytes (s.mem.readBytes a 2) = (decodeWord (s.wordAt a)).map (·, []) := by
  simp only [Memory.readBytes, decodeBytes, State.wordAt, State.byteAt]
  cases decodeWord (wordOfBytes (s.mem.read a) (s.mem.read (a + 1))) <;> rfl

theorem atInstr_of_decodeBytes {s : State} {i : Instr} (hpc : s.pc.toNat ≤ 0x0FFE)
    (h : decodeBytes (s.mem.readBytes s.pc.toNat 2) = .ok (i, [])) : s.AtInstr i := by
  refine ⟨hpc, ?_⟩
  rw [decodeBytes_readBytes] at h
  cases hd : decodeWord (s.wordAt s.pc.toNat) with
  | ok j =>
    rw [hd] at h
    cases h
    rfl
  | error e =>
    rw [hd] at h
    cases h

/-- The decay of both timers, written out as numbers (rule R202). -/
theorem decayTimers_eq (s : State) : s.decayTimers =
    { s with dt := BitVec.ofNat 8 (s.dt.toNat - 1), st := BitVec.ofNat 8 (s.st.toNat - 1) } := by
  rw [← decayed_eq_ofNat, ← decayed_eq_ofNat]
  rfl

/-- Settles O6: the state is at the instruction that its two bytes decode to, so `step_at` gives the tick; the decay is
written out as numbers. -/
theorem stepRunsTheDecodedInstruction : Obligations.StepRunsTheDecodedInstruction := by
  intro s i hpc hdecode
  refine ⟨?_, fun inp rest h => ?_, fun h => ?_⟩
  · rw [step_at (atInstr_of_decodeBytes hpc hdecode)]
    cases exec i s.entered with
    | next t => exact congrArg Host.Outcome.next (decayTimers_eq t)
    | fault f => rfl
    | refused r => rfl
  · rw [key_entered, rnd_entered, inputs_entered, nextInput_of_cons h, h]
    exact ⟨rfl, rfl, rfl⟩
  · rw [key_entered, rnd_entered, nextInput_of_nil h]
    exact ⟨rfl, rfl⟩

/-! ### The result record (rule R87) and the faults of fetch and dispatch (rules R82, R85, R191, R192) -/

theorem tickResult_of_next {s t : State} (h : step s = .next t) :
    s.tickResult = some { instr := s.fetchWord, pc := t.pc, fault := .none } := by
  rw [State.tickResult, h]
  rfl

theorem tickResult_of_fault {s : State} {f : Fault} (h : step s = .fault f) :
    s.tickResult = some { instr := s.fetchWord, pc := f.final.pc, fault := f.code } := by
  rw [State.tickResult, h]
  rfl

theorem fetchWord_of_le {s : State} (h : s.pc.toNat ≤ 0x0FFE) : s.fetchWord = some (s.wordAt s.pc.toNat) := if_pos h

theorem fetchWord_of_gt {s : State} (h : 0x0FFE < s.pc.toNat) : s.fetchWord = none := if_neg (Nat.not_le.mpr h)

theorem step_next_pc_le {s t : State} (h : step s = .next t) : s.pc.toNat ≤ 0x0FFE := by
  obtain ⟨i, -, hat, -, -⟩ := step_next h
  exact hat.1

/-- Settles O13: the record holds what the fetch gave, and a tick that succeeds did fetch. -/
theorem resultRecordReportsTheTick : Obligations.ResultRecordReportsTheTick := by
  refine ⟨fun s t h => ?_, fun s f h => ?_, ⟨rfl, rfl, rfl, rfl, rfl⟩, fun u => ⟨rfl, rfl, rfl, rfl, rfl⟩⟩
  · rw [tickResult_of_next h, fetchWord_of_le (step_next_pc_le h)]
  · rw [tickResult_of_fault h, fetchWord_eq]

/-- No handler raises the fault of the fetch. -/
theorem exec_ne_outOfBoundsFetch (i : Instr) (s t : State) : exec i s ≠ .fault (.outOfBoundsFetch t) := by
  obtain ⟨u, h⟩ | ⟨-, -, h⟩ | ⟨-, -, h⟩ | ⟨-, h⟩ := exec_cases i s <;> simp [h]

/-- Settles O7: above the bound `step_of_no_fetch` gives the fault and the fetch gives no word; within it a fault is that
of an illegal word or of a handler, and neither is a fetch fault. -/
theorem fetchFaultsExactlyAbove0FFE : Obligations.FetchFaultsExactlyAbove0FFE := by
  refine fun s => ⟨fun hpc => ⟨step_of_no_fetch hpc, ?_⟩, fun hpc t h => ?_⟩
  · rw [tickResult_of_fault (step_of_no_fetch hpc), fetchWord_of_gt hpc]
    rfl
  · obtain ⟨habove, -⟩ | ⟨-, -, hf⟩ | ⟨i, -, hf⟩ := step_fault h
    · omega
    · cases hf
    · exact exec_ne_outOfBoundsFetch i _ t hf

/-- Settles O8: the tick is that of `step_illegal`, and its record holds the word fetched. -/
theorem illegalWordFaults : Obligations.IllegalWordFaults := by
  intro s e hpc hillegal
  have hstep := step_illegal hpc hillegal
  refine ⟨hstep, ?_⟩
  rw [tickResult_of_fault hstep, fetchWord_of_le hpc]
  rfl

/-! ### Zero memory (rules R82, R84) -/

theorem run_succ_of_next {s t : State} (h : step s = .next t) (k : Nat) :
    Sys2Proof.core.run (k + 1) s = Sys2Proof.core.run k t := by
  rw [run_succ, h]

theorem run_succ_of_fault {s : State} {f : Fault} (h : step s = .fault f) (k : Nat) :
    Sys2Proof.core.run (k + 1) s = .fault f := by
  rw [run_succ, h]

/-- Two zero bytes at `PC` are the zero word, row 1 of the table (rule R84). -/
theorem atInstr_nop_of_zero_bytes {s : State} (hpc : s.pc.toNat ≤ 0x0FFE) (hhi : s.byteAt s.pc.toNat = 0x00#8)
    (hlo : s.byteAt (s.pc.toNat + 1) = 0x00#8) : s.AtInstr .nop := by
  refine ⟨hpc, ?_⟩
  rw [State.wordAt, hhi, hlo]
  rfl

/-- The tick of a no-op. -/
theorem step_of_atInstr_nop {s : State} (h : s.AtInstr .nop) : step s = .next s.entered.decayTimers := by
  rw [step_at h]
  rfl

/-- The advanced `PC` does not wrap after a fetch (rule R83). -/
theorem toNat_pc_entered {s : State} (h : s.pc.toNat ≤ 0x0FFE) : s.entered.pc.toNat = s.pc.toNat + 2 := by
  simp only [pc_entered, BitVec.toNat_add, BitVec.toNat_ofNat]
  omega

/-- Settles O26, by induction on the number of zero words left: each is a no-op that leaves memory, so the state after it
has one word fewer to run; with none left `PC` is above the fetch bound. -/
theorem zeroMemoryRunsToAFetchFault : Obligations.ZeroMemoryRunsToAFetchFault := by
  intro k
  induction k with
  | zero =>
    intro s hend _
    exact ⟨s, rfl, rfl, rfl, rfl, rfl, rfl, rfl, rfl, _, run_succ_of_fault (step_of_no_fetch (by omega)) 0⟩
  | succ k ih =>
    intro s hend hzero
    have hfetch : s.pc.toNat ≤ 0x0FFE := by omega
    have hnop := atInstr_nop_of_zero_bytes hfetch (hzero _ le_rfl (by omega)) (hzero _ (by omega) (by omega))
    have hrun := run_succ_of_next (step_of_atInstr_nop hnop)
    have hpc : s.entered.decayTimers.pc.toNat = s.pc.toNat + 2 := toNat_pc_entered hfetch
    obtain ⟨t, ht, htpc, hv, hindex, hstack, hsp, hfb, hmem, u, hu⟩ :=
      ih s.entered.decayTimers (by omega) fun a hle => hzero a (by omega)
    exact ⟨t, (hrun k).trans ht, by omega, hv, hindex, hstack, hsp, hfb, hmem, u, (hrun (k + 1)).trans hu⟩

/-! ### The pending wait (rules R176, R177) -/

/-- The tick of a pending wait that finds no key. -/
theorem step_pendingWait {x : RegIdx} {s : State} (hat : s.AtInstr (.ldVxK x)) (hawaiting : s.awaitingKey = true)
    (hnone : ∀ k : RegIdx, ¬KeyQualifies s.params.keywaitEdge s.prevkey s.nextInput.keys k) :
    step s = .next s.entered.stayWaiting.decayTimers := by
  have hfound : s.entered.foundKey = none := foundKey_eq_none.mpr hnone
  have hexec : exec (.ldVxK x) s.entered = .next s.entered.stayWaiting :=
    exec_ldVxK_next.mpr (.inr (.inl ⟨hawaiting, hfound, rfl⟩))
  rw [step_at hat, hexec]
  rfl

/-- The rewind of a pending wait undoes the advance of its tick. -/
theorem pc_stayWaiting_entered (s : State) : s.entered.stayWaiting.pc = s.pc := BitVec.add_sub_cancel s.pc 2#16

/-- A wait that stays pending is fetched again by the next tick. -/
theorem atInstr_stayWaiting_entered {s : State} {i : Instr} (h : s.AtInstr i) :
    s.entered.stayWaiting.decayTimers.AtInstr i :=
  (AtInstr_congr (pc_stayWaiting_entered s) rfl).mpr h

/-- Settles O54: the tick of `step_pendingWait` writes `prevkey` and the timers only. -/
theorem pendingWaitStaysInPlace : Obligations.PendingWaitStaysInPlace := by
  intro x s hat hawaiting hnone
  exact ⟨_, step_pendingWait hat hawaiting hnone, atInstr_stayWaiting_entered hat, pc_stayWaiting_entered s, hawaiting,
    rfl, rfl, rfl, rfl, rfl, rfl, rfl, decayed_toNat s.dt, decayed_toNat s.st, rfl, rfl, rfl⟩

/-- A key that is as it was has made no transition, under either edge. -/
theorem not_keyQualifies_self (edge : Config.KeywaitEdge) (keys : Keys) (k : RegIdx) :
    ¬KeyQualifies edge keys keys k := by
  cases edge <;> simp [KeyQualifies]

/-- Settles O55, by induction on the number of ticks: a tick without a transition keeps the wait pending at the same `PC`,
with the same snapshot in `prevkey` and one listed input fewer. -/
theorem waitWithoutTransitionsNeverEnds : Obligations.WaitWithoutTransitionsNeverEnds := by
  intro x s hat hawaiting hkeys k
  induction k generalizing s with
  | zero => exact fun _ => ⟨s, rfl, rfl, hawaiting, rfl, rfl, rfl, rfl⟩
  | succ k ih =>
    intro hlen
    obtain ⟨inp, rest, hinputs⟩ := List.exists_cons_of_length_pos (Nat.zero_lt_of_lt hlen)
    have hheld : s.nextInput.keys = s.prevkey := by
      rw [nextInput_of_cons hinputs]
      exact hkeys inp (by simp [hinputs])
    have hnone : ∀ k : RegIdx, ¬KeyQualifies s.params.keywaitEdge s.prevkey s.nextInput.keys k := by
      rw [hheld]
      exact not_keyQualifies_self _ _
    have hstep := step_pendingWait hat hawaiting hnone
    have hlen' : k ≤ s.inputs.tail.length := by
      rw [List.length_tail]
      omega
    obtain ⟨t, hrun, hv, ht, hpc, hmem, hdt, hst⟩ := ih s.entered.stayWaiting.decayTimers
      (atInstr_stayWaiting_entered hat) hawaiting
      (fun inp hinp => (hkeys inp (List.mem_of_mem_tail hinp)).trans hheld.symm)
      hlen'
    rw [dt_decayTimers, decayed_toNat, Nat.sub_sub, Nat.add_comm] at hdt
    rw [st_decayTimers, decayed_toNat, Nat.sub_sub, Nat.add_comm] at hst
    exact ⟨t, (run_succ_of_next hstep k).trans hrun, hv, ht, hpc.trans (pc_stayWaiting_entered s), hmem, hdt, hst⟩

/-! ### The random byte (rule R133) -/

/-- Settles O39: one register is written, with the conjunction of the latched byte and `kk`. -/
theorem randomIsMaskedInput : Obligations.RandomIsMaskedInput := by
  refine fun x kk s => ⟨_, rfl, fun k => ?_, fun r hr => readV_setV_other s _ hr, keptBut_setV s x _⟩
  rw [readV_setV_same, BitVec.getLsbD_and]

end Sys2Proof.Machine
end

section
/-! ## Jumps, the call stack, the compare-and-skip instructions and the self jump (rules R100 to R109, R194, R195, R210) -/

namespace Sys2Proof.Machine

/-! ### Jumps (rules R103, R109) -/

theorem jumpsTo_of_setPc {i : Instr} {s : State} {p : Word} (h : exec i s = .next (s.setPc p)) :
    JumpsTo p.toNat i s :=
  ⟨_, h, rfl, keptBut_setPc s p⟩

/-- The target of `1nnn` and of `2nnn` is `nnn` itself. -/
theorem toNat_jumpTarget (nnn : Addr12) : (nnn.setWidth 16 : Word).toNat = nnn.toNat :=
  BitVec.toNat_setWidth_of_le (by decide)

/-- Settles O31: the handler sets `PC` to the target, which keeps every bit of `nnn`. -/
theorem jumpSetsPc : Obligations.JumpSetsPc := by
  intro nnn s
  rw [← toNat_jumpTarget]
  exact jumpsTo_of_setPc rfl

/-- Settles O32: the handler sets `PC` to a sum that fits in 16 bits (`toNat_jpV0_target`). -/
theorem indexedJumpAddsV0 : Obligations.IndexedJumpAddsV0 := by
  intro nnn s
  rw [← toNat_jpV0_target]
  exact jumpsTo_of_setPc rfl

/-! ### The compare-and-skip instructions (rules R100, R105 to R108) -/

/-- A handler that skips on the test `b` skips exactly when what `b` decides holds. -/
theorem skipsExactlyWhen_of_skipIf {i : Instr} {s : State} {b : Bool} {c : Prop} (h : exec i s = .next (s.skipIf b))
    (hb : b = true ↔ c) : SkipsExactlyWhen c i s :=
  ⟨_, h, fun hc => if_pos (hb.mpr hc), fun hc => if_neg (mt hb.mp hc), keptBut_setPc s _⟩

/-- Families 5 and 9 require `n = 0` (rule R67). -/
theorem decodeWord_family5_or_9 {w : Word} (hfamily : (fieldsOf w).family = 0x5#4 ∨ (fieldsOf w).family = 0x9#4)
    (hn : (fieldsOf w).n ≠ 0x0#4) : decodeWord w = .error (.illegal w) := by
  refine decodeWord_eq_illegal.mpr ?_
  obtain h5 | h9 := hfamily
  · exact .inl ⟨h5, hn⟩
  · exact .inr (.inl ⟨h9, hn⟩)

/-- Settles O33: each handler skips on the Boolean form of its comparison. -/
theorem comparesSkipExactlyWhenStated : Obligations.ComparesSkipExactlyWhenStated := by
  refine ⟨fun x y kk s => ⟨?_, ?_, ?_, ?_⟩, fun w => decodeWord_family5_or_9⟩
  · exact skipsExactlyWhen_of_skipIf rfl beq_iff_eq
  · exact skipsExactlyWhen_of_skipIf rfl bne_iff_ne
  · exact skipsExactlyWhen_of_skipIf rfl beq_iff_eq
  · exact skipsExactlyWhen_of_skipIf rfl bne_iff_ne

/-! ### The call stack (rules R102, R104, R194, R195) -/

theorem exec_ret_of_empty {s : State} (h : s.sp.val = 0) : exec .ret s = .fault (.stackUnderflow s) :=
  dif_neg (by omega)

theorem exec_call_of_full {nnn : Addr12} {s : State} (h : s.sp.val = 16) :
    exec (.call nnn) s = .fault (.stackOverflow s) :=
  dif_neg (by omega)

/-- A push writes the entry at `SP` and no other. -/
theorem getElem_stack_push (s : State) (p : Word) (h : s.sp.val < 16) (j : Fin 16) :
    (s.push p h).stack[j.val] = if j.val = s.sp.val then p else s.stack[j.val] := by
  simp only [stack_push, Vector.getElem_set, eq_comm]

/-- A pop from the stack and the `SP` that a push left gives the entry pushed and the `SP` before the push. -/
theorem pop_of_pushed {s u : State} {p : Word} {h : s.sp.val < 16} (hstack : u.stack = (s.push p h).stack)
    (hsp : u.sp = (s.push p h).sp) : ∃ hu : 0 < u.sp.val, (u.pop hu).pc = p ∧ (u.pop hu).sp = s.sp := by
  have hval : u.sp.val = s.sp.val + 1 := congrArg Fin.val hsp
  refine ⟨by omega, ?_, Fin.ext ?_⟩
  · simp [hstack, hval]
  · simp [hval]

/-- Settles O28: with `SP` above 0 the handler is one pop; with `SP = 0` it raises the fault. -/
theorem returnPopsTheStack : Obligations.ReturnPopsTheStack := by
  refine fun s => ⟨fun h => ?_, exec_ret_of_empty⟩
  exact ⟨_, exec_ret_next.mpr ⟨h, rfl⟩, rfl, rfl, rfl, keptBut_pop s h⟩

/-- Settles O29: with `SP` below 16 the handler is one push and a jump; with `SP = 16` it raises the fault. -/
theorem callPushesAndJumps : Obligations.CallPushesAndJumps := by
  refine fun nnn s => ⟨fun h => ?_, exec_call_of_full⟩
  exact ⟨_, exec_call_next.mpr ⟨h, rfl⟩, rfl, toNat_jumpTarget nnn, getElem_stack_push s s.pc h,
    keptBut_pushThenJump s _ _ h⟩

/-- Settles O30: the call pushed the advanced `PC`, and the return pops from the stack the call left
(`pop_of_pushed`). -/
theorem callThenReturnRestoresPc : Obligations.CallThenReturnRestoresPc := by
  intro nnn s t u hcall hstack hsp
  obtain ⟨h, rfl⟩ := exec_call_next.mp hcall
  obtain ⟨hu, hpc, hsp'⟩ := pop_of_pushed (h := h) hstack hsp
  exact ⟨_, exec_ret_next.mpr ⟨hu, rfl⟩, hpc, hsp'⟩

/-! ### The jump to itself (rule R210) -/

/-- What a tick at a jump to itself leaves: `PC` is set back, the inputs are loaded, the timers have decayed. -/
def State.afterSelfJump (s : State) : State := (s.entered.setPc s.pc).decayTimers

theorem step_of_atSelfJump {s : State} (h : s.AtSelfJump) : step s = .next s.afterSelfJump := by
  obtain ⟨nnn, hat, hself⟩ := h
  have htarget : (nnn.setWidth 16 : Word) = s.pc := BitVec.eq_of_toNat_eq ((toNat_jumpTarget nnn).trans hself)
  have hexec : exec (.jp nnn) s.entered = .next (s.entered.setPc s.pc) := htarget ▸ rfl
  rw [step_at hat, hexec]
  rfl

theorem atSelfJump_afterSelfJump {s : State} (h : s.AtSelfJump) : s.afterSelfJump.AtSelfJump := by
  obtain ⟨nnn, hat, hself⟩ := h
  exact ⟨nnn, (AtInstr_congr rfl rfl).mpr hat, hself⟩

/-- Where a property makes the tick succeed and holds after it, no number of ticks meets a fault. -/
theorem faultFree_of_step {P : State → Prop} (hstep : ∀ s, P s → ∃ t, step s = .next t ∧ P t) {s : State} (hs : P s)
    (k : Nat) : FaultFree k s := by
  induction k generalizing s with
  | zero => exact ⟨s, rfl⟩
  | succ k ih =>
    obtain ⟨t, ht, hP⟩ := hstep s hs
    obtain ⟨u, hu⟩ := ih hP
    exact ⟨u, (run_succ_of_next ht k).trans hu⟩

/-- Settles O24: the tick of `step_of_atSelfJump` succeeds and leaves the machine at the same jump, so every run goes on. -/
theorem selfJumpRunsForever : Obligations.SelfJumpRunsForever := by
  intro s h
  refine ⟨faultFree_of_step (fun u hu => ⟨_, step_of_atSelfJump hu, atSelfJump_afterSelfJump hu⟩) h, ?_⟩
  exact ⟨_, step_of_atSelfJump h, atSelfJump_afterSelfJump h, rfl, rfl, rfl, rfl, rfl, rfl, rfl, decayed_toNat s.dt,
    decayed_toNat s.st, rfl, rfl, rfl, rfl, rfl⟩

end Sys2Proof.Machine
end

section
/-! ## Register loads, arithmetic with its flags, and the bitwise instructions (rules R120 to R132) -/

namespace Sys2Proof.Machine

/-! ### The two shapes of a register write -/

/-- A handler that writes one register sets it to the number of the byte written. -/
theorem setsRegister_of_setV {x : RegIdx} {n : Nat} {i : Instr} {s : State} {b : Byte}
    (h : exec i s = .next (s.setV x b)) (hb : b.toNat = n) : SetsRegister x n i s :=
  ⟨_, h, by rw [readV_setV_same, hb], fun _ hr => readV_setV_other s b hr, keptBut_setV s x b⟩

/-- After a flag-defining handler `VF` holds the flag, also when it is the destination (rule R121). -/
theorem readV_vf_setResultThenFlag (s : State) (x : RegIdx) (b flag : Byte) :
    (s.setResultThenFlag x b flag).readV vf = flag := by
  rw [readV_setResultThenFlag, if_pos rfl]

/-- A handler that writes its result and then the flag `c` sets the register to the number of the result, and `VF` to 1 or 0
by what `c` decides. -/
theorem setsRegisterAndFlag_of_setResultThenFlag {x : RegIdx} {n : Nat} {p : Prop} {i : Instr} {s : State} {b : Byte}
    {c : Bool} (h : exec i s = .next (s.setResultThenFlag x b (flagByte c))) (hb : b.toNat = n) (hc : c = true ↔ p) :
    SetsRegisterAndFlag x n p i s := by
  refine ⟨_, h, fun hx => ?_, fun hp => ?_, fun hp => ?_, fun r hrx hrf => ?_, keptBut_setResultThenFlag s x _ _⟩
  · rw [readV_setResultThenFlag, if_neg hx, if_pos rfl, hb]
  · rw [readV_vf_setResultThenFlag]
    exact flagByte_eq_one.mpr (hc.mpr hp)
  · rw [readV_vf_setResultThenFlag]
    exact flagByte_eq_zero.mpr (Bool.eq_false_of_not_eq_true (mt hc.mp hp))
  · rw [readV_setResultThenFlag, if_neg hrf, if_neg hrx]

/-! ### The results as numbers, and the bits shifted out -/

theorem toNat_byte_sub (a b : Byte) : (a - b).toNat = (a.toNat + 256 - b.toNat) % 256 := by
  have hb := b.isLt
  rw [BitVec.toNat_sub]
  congr 1
  omega

theorem toNat_shiftRight_one (a : Byte) : (a >>> 1).toNat = a.toNat / 2 := by
  rw [BitVec.toNat_ushiftRight, Nat.shiftRight_eq_div_pow, pow_one]

theorem toNat_shiftLeft_one (a : Byte) : (a <<< 1).toNat = a.toNat * 2 % 256 := by
  rw [BitVec.toNat_shiftLeft, Nat.shiftLeft_eq, pow_one]

/-- The bit a right shift moves out is the parity. -/
theorem getLsbD_zero_iff (a : Byte) : a.getLsbD 0 = true ↔ a.toNat % 2 = 1 := by
  rw [BitVec.getLsbD, Nat.testBit_zero, decide_eq_true_iff]

/-- The bit a left shift moves out is the most significant one. -/
theorem getLsbD_seven_iff (a : Byte) : a.getLsbD 7 = true ↔ 128 ≤ a.toNat := by
  have hmsb : a.msb = a.getLsbD 7 := BitVec.msb_eq_getLsbD_last a
  rw [← hmsb, BitVec.msb_eq_decide, decide_eq_true_iff]

/-! ### Arithmetic with a flag (rules R128 to R132) -/

/-- Settles O36: the handler writes the sum, whose number is reduced modulo 256, and last the comparison with 255. -/
theorem addSetsCarry : Obligations.AddSetsCarry := fun x y s =>
  setsRegisterAndFlag_of_setResultThenFlag rfl (BitVec.toNat_add (s.readV x) (s.readV y)) decide_eq_true_iff

/-- Settles O37: each handler writes the difference (`toNat_byte_sub`) and last the strict comparison of its operands. -/
theorem subtractionsSetStrictFlag : Obligations.SubtractionsSetStrictFlag := by
  refine fun x y s => ⟨?_, ?_⟩
  · exact setsRegisterAndFlag_of_setResultThenFlag rfl (toNat_byte_sub (s.readV x) (s.readV y)) decide_eq_true_iff
  · exact setsRegisterAndFlag_of_setResultThenFlag rfl (toNat_byte_sub (s.readV y) (s.readV x)) decide_eq_true_iff

/-- Settles O38: a shift by one halves or doubles the number; the bit moved out is its parity or its bit of weight 128. -/
theorem shiftsSetTheBitShiftedOut : Obligations.ShiftsSetTheBitShiftedOut := by
  refine fun x y s => ⟨?_, ?_⟩
  · exact setsRegisterAndFlag_of_setResultThenFlag rfl (toNat_shiftRight_one (s.readV x)) (getLsbD_zero_iff _)
  · exact setsRegisterAndFlag_of_setResultThenFlag rfl (toNat_shiftLeft_one (s.readV x)) (getLsbD_seven_iff _)

/-! ### Loads, the immediate add and the bitwise instructions (rules R122 to R127) -/

/-- Settles O34: each handler is one register write. -/
theorem loadsAndImmediateAdd : Obligations.LoadsAndImmediateAdd := by
  refine fun x y kk s => ⟨?_, ?_, ?_⟩
  · exact setsRegister_of_setV rfl rfl
  · exact setsRegister_of_setV rfl (BitVec.toNat_add (s.readV x) kk)
  · exact setsRegister_of_setV rfl rfl

/-- Settles O35: each handler is one register write, and Lean's bitwise operations on words act on each bit. -/
theorem bitwiseActOnEveryBit : Obligations.BitwiseActOnEveryBit := by
  refine fun x y s => ⟨_, _, _, rfl, rfl, rfl, fun k => ?_, fun k => ?_, fun k => ?_, fun r hr => ⟨?_, ?_, ?_⟩,
    keptBut_setV s x _, keptBut_setV s x _, keptBut_setV s x _⟩
  · rw [readV_setV_same, BitVec.getLsbD_or]
  · rw [readV_setV_same, BitVec.getLsbD_and]
  · rw [readV_setV_same, BitVec.getLsbD_xor]
  · exact readV_setV_other s _ hr
  · exact readV_setV_other s _ hr
  · exact readV_setV_other s _ hr

end Sys2Proof.Machine
end

section
/-! ## The index register, the timers, and the round trip of a block transfer (rules R140 to R145, R147, R148) -/

namespace Sys2Proof.Machine

/-! ### Store and load (rules R147, R148) -/

/-- Over the same block at the same `I`, a load after a store gives `V[0]` to `V[x]` of the store back and leaves the
registers above `x`. -/
theorem readV_loadRegs_of_storeRegs {x : RegIdx} {s t w u : State} (hstore : exec (.storeRegs x) s = .next t)
    (hmem : w.mem = t.mem) (hindex : w.index = s.index) (hload : exec (.loadRegs x) w = .next u) (r : RegIdx) :
    u.readV r = if r ≤ x then s.readV r else w.readV r := by
  obtain ⟨-, rfl⟩ := exec_loadRegs_next.mp hload
  rw [readV_setBank, getElem_bankLoaded, State.byteAt, hmem, hindex]
  by_cases hr : r ≤ x
  · rw [if_pos hr, if_pos (Fin.le_def.mp hr)]
    exact byteAt_storeRegs hstore hr
  · rw [if_neg hr, if_neg (Fin.le_def.not.mp hr)]

/-- Two states whose registers read alike hold the same bank. -/
theorem v_eq_of_readV_eq {s t : State} (h : ∀ r : RegIdx, s.readV r = t.readV r) : s.v = t.v :=
  Vector.ext fun j hj => h ⟨j, hj⟩

/-- Settles O46: the store kept `I`, so the load checks the bound that the store passed, and
`readV_loadRegs_of_storeRegs` gives each register. -/
theorem storeThenLoadRoundTrips : Obligations.StoreThenLoadRoundTrips := by
  intro x s t bank hstore
  obtain ⟨-, -, hindex, -⟩ := exec_keptBut hstore
  have hfit : blockFits t.index (x.val + 1) = true := by
    rw [hindex rfl]
    exact (exec_storeRegs_next.mp hstore).1
  have hload : exec (.loadRegs x) (t.setBank bank) = .next _ := exec_loadRegs_next.mpr ⟨hfit, rfl⟩
  have hread := readV_loadRegs_of_storeRegs hstore (mem_setBank t bank) (hindex rfl) hload
  refine ⟨_, hload, fun r hr => ?_, fun r hr => ?_, fun hbank => v_eq_of_readV_eq fun r => ?_⟩
  · rw [hread, if_pos hr]
  · rw [hread, if_neg (Fin.not_le.mpr hr), readV_setBank]
  · rw [hread, readV_setBank, hbank]
    exact ite_self _

/-! ### The index register (rules R140, R144, R145) -/

/-- A handler that writes `I` sets it to the number of the word written. -/
theorem setsIndex_of_setIndex {n : Nat} {i : Instr} {s : State} {a : Word} (h : exec i s = .next (s.setIndex a))
    (ha : a.toNat = n) : SetsIndex n i s :=
  ⟨_, h, ha, keptBut_setIndex s a⟩

/-- The highest glyph address is 0x09B, so no address of a glyph is truncated. -/
theorem toNat_glyphAddress (d : RegIdx) : (glyphAddress d).toNat = 0x050 + 5 * d.val := by
  have := d.isLt
  rw [glyphAddress, Config.fontBase, BitVec.toNat_ofNat]
  omega

/-- A sum reduced to 12 bits fits in the 16 bits of `I` (rule R144). -/
theorem toNat_indexSum (i : Word) (b : Byte) : (indexSum i b).toNat = (i.toNat + b.toNat) % 0x1000 := by
  rw [indexSum, BitVec.toNat_ofNat]
  omega

/-- Settles O40: each handler is one write of `I`: of `nnn` with every bit kept, and of a glyph's address. -/
theorem indexLoadAndGlyphAddress : Obligations.IndexLoadAndGlyphAddress := by
  refine fun x nnn s => ⟨?_, ?_⟩
  · exact setsIndex_of_setIndex rfl (BitVec.toNat_setWidth_of_le (by decide))
  · exact setsIndex_of_setIndex rfl (by rw [toNat_glyphAddress, lowNibble_val])

/-- Settles O41: the handler is one write of `I`, of the 12-bit sum. -/
theorem indexAddWrapsAt12Bits : Obligations.IndexAddWrapsAt12Bits := fun x s =>
  setsIndex_of_setIndex rfl (toNat_indexSum s.index (s.readV x))

/-! ### The timers (rules R141, R142, R143, R202) -/

/-- A tick whose handler completes succeeds, and leaves the handler's state with both timers decayed. -/
theorem step_of_exec_next {i : Instr} {s u : State} (hat : s.AtInstr i) (h : exec i s.entered = .next u) :
    step s = .next u.decayTimers := by
  rw [step_at hat, h]
  rfl

/-- Settles O42: each handler is one copy; in the whole tick (`step_of_exec_next`) the decay acts on the timers that the
copy left. -/
theorem timerAccessCopies : Obligations.TimerAccessCopies := by
  refine fun x s => ⟨setsRegister_of_setV rfl rfl, ⟨_, rfl, rfl, rfl, keptBut_setDt s _⟩,
    ⟨_, rfl, rfl, rfl, keptBut_setSt s _⟩, fun hat => ?_, fun hat => ?_, fun hat => ?_⟩
  · exact ⟨_, step_of_exec_next hat rfl, readV_setV_same _ _ _, decayed_toNat s.dt, decayed_toNat s.st⟩
  · exact ⟨_, step_of_exec_next hat rfl, decayed_toNat (s.readV x), decayed_toNat s.st⟩
  · exact ⟨_, step_of_exec_next hat rfl, decayed_toNat (s.readV x), decayed_toNat s.dt⟩

end Sys2Proof.Machine
end

section
/-! ## Clearing the screen, and drawing a sprite twice (rules R161, R162, R163) -/

namespace Sys2Proof.Machine

/-! ### The pixels of a frame buffer -/

theorem pixel_setScreen (s : State) (g : Vector Row 32) (r : Fin 32) (c : Fin 64) :
    (s.setScreen g).pixel r c = g[r.val].getLsbD c.val := rfl

/-- The pixels determine the frame buffer. -/
theorem screen_ext {f g : Vector Row 32}
    (h : ∀ (r : Fin 32) (c : Fin 64), f[r.val].getLsbD c.val = g[r.val].getLsbD c.val) : f = g :=
  Vector.ext fun r hr => BitVec.eq_of_getLsbD_eq fun c hc => h ⟨r, hr⟩ ⟨c, hc⟩

/-! ### Clearing (rule R161) -/

theorem pixel_setScreen_blank (s : State) (r : Fin 32) (c : Fin 64) : (s.setScreen blankScreen).pixel r c = false := by
  rw [pixel_setScreen, blankScreen, Vector.getElem_replicate, BitVec.getLsbD_zero]

/-- Settles O48: the handler replaces the screen by `blankScreen` and does nothing else. -/
theorem clearBlanksTheScreen : Obligations.ClearBlanksTheScreen := fun s =>
  ⟨_, rfl, pixel_setScreen_blank s, displayDirty_setScreen s _, keptBut_setScreen s _⟩

/-! ### Drawing twice (rules R162, R163) -/

/-- Where a sprite lands does not depend on the screen. -/
theorem SpriteCovers_setScreen {s : State} {g : Vector Row 32} {x y : RegIdx} {n : Nibble} {r : Fin 32} {c : Fin 64} :
    SpriteCovers (s.setScreen g) x y n r c ↔ SpriteCovers s x y n r c := Iff.rfl

/-- A second draw over the first flips the covered pixels back and leaves the others. -/
theorem drawn_drawn_screen (s : State) (x y : RegIdx) (n : Nibble) :
    ((s.setScreen (s.drawn x y n).1).drawn x y n).1 = s.fb := by
  refine screen_ext fun r c => ?_
  have hfirst := (drawn_spec s x y n).1 r c
  have hsecond := (drawn_spec (s.setScreen (s.drawn x y n).1) x y n).1 r c
  rw [SpriteCovers_setScreen, pixel_setScreen] at hsecond
  change _ = s.pixel r c
  by_cases hcov : SpriteCovers s x y n r c
  · rw [Bool.eq_not_of_ne (hsecond.mpr hcov), Bool.eq_not_of_ne (hfirst.mpr hcov), Bool.not_not]
  · rw [not_not.mp (mt hsecond.mp hcov), not_not.mp (mt hfirst.mp hcov)]

/-- The second draw hits a pixel exactly when a covered pixel was OFF before the first, which turned it ON. -/
theorem drawn_drawn_hit (s : State) (x y : RegIdx) (n : Nibble) :
    ((s.setScreen (s.drawn x y n).1).drawn x y n).2 = true ↔
      ∃ r c, SpriteCovers s x y n r c ∧ s.pixel r c = false := by
  rw [(drawn_spec _ x y n).2]
  refine exists_congr fun r => exists_congr fun c => and_congr_right fun hcov => ?_
  have hflip := ((drawn_spec s x y n).1 r c).mpr hcov
  rw [pixel_setScreen, Bool.eq_not_of_ne hflip, Bool.not_eq_true']

/-- Settles O50: with the registers set back, the state between the draws is the first state under the drawn screen, with
the same `I`, so the second draw passes the bound check too, and `drawn_drawn_screen` and `drawn_drawn_hit` say what it
leaves. -/
theorem drawingTwiceRestoresTheScreen : Obligations.DrawingTwiceRestoresTheScreen := by
  intro x y n s t hdraw
  obtain ⟨hfit, rfl⟩ := exec_drw_next.mp hdraw
  have hagain : exec (.drw x y n) (s.setScreen (s.drawn x y n).1) = .next _ := exec_drw_next.mpr ⟨hfit, rfl⟩
  refine ⟨_, hagain, drawn_drawn_screen s x y n, fun hoff => ?_, fun hon => ?_⟩
  · rw [readV_setV_same, flagByte_eq_one, drawn_drawn_hit]
    exact hoff
  · rw [readV_setV_same, flagByte_eq_zero, ← Bool.not_eq_true, drawn_drawn_hit]
    exact hon

end Sys2Proof.Machine
end

section
/-! ## The key skips and the key wait (rules R171 to R176) -/

namespace Sys2Proof.Machine

/-! ### The key skips (rules R171, R172, R173) -/

/-- The key test of a skip reads the bit of `key` that rule R171 selects. -/
theorem keyDown_selectedKey (s : State) (x : RegIdx) :
    s.keyDown (s.selectedKey x) = s.key.getLsbD (keyTested s.params.keySelect s x) := by
  rw [State.keyDown, selectedKey_val]

/-- Settles O51: each handler skips on the selected bit of `key`, or on its negation. -/
theorem keySkipsTestTheSelectedKey : Obligations.KeySkipsTestTheSelectedKey := by
  refine fun x s => ⟨?_, ?_⟩
  · exact skipsExactlyWhen_of_skipIf rfl (by rw [keyDown_selectedKey])
  · exact skipsExactlyWhen_of_skipIf rfl (by rw [keyDown_selectedKey, Bool.not_eq_true'])

/-! ### The frame of the three ways a key wait completes (rules R175, R176) -/

theorem keptBut_enterWait (s : State) : KeptBut { pc := true, keyWait := true } s s.enterWait := by
  simp [KeptBut]

theorem keptBut_stayWaiting (s : State) : KeptBut { pc := true, keyWait := true } s s.stayWaiting := by
  simp [KeptBut]

theorem keptBut_resolveWait (s : State) (x : RegIdx) (b : Byte) :
    KeptBut { bank := true, keyWait := true } s ((s.setV x b).setAwaiting false) := by
  simp [KeptBut]

/-! ### Entering and resolving a wait (rules R174, R175, R176) -/

/-- Settles O52: with `awaiting_key` clear the handler enters the wait, and `enterWait` reads no single key. -/
theorem keyWaitEnters : Obligations.KeyWaitEnters := fun _ s hclear =>
  ⟨s.enterWait, exec_ldVxK_next.mpr (.inl ⟨hclear, rfl⟩), rfl, rfl, rfl, keptBut_enterWait s⟩

/-- A qualifying key below which none qualifies is the one the wait finds: the wait finds some key, and neither of the two
is below the other. -/
theorem foundKey_eq_some_of_lowest {s : State} {k : RegIdx}
    (hk : KeyQualifies s.params.keywaitEdge s.prevkey s.key k)
    (hlow : ∀ j : RegIdx, j < k → ¬KeyQualifies s.params.keywaitEdge s.prevkey s.key j) : s.foundKey = some k := by
  cases hfound : s.foundKey with
  | none => exact absurd hk (foundKey_eq_none.mp hfound k)
  | some j =>
    obtain ⟨hj, hlowj⟩ := foundKey_eq_some hfound
    have hkj : k ≤ j := not_lt.mp fun hlt => hlow j hlt hj
    have hjk : j ≤ k := not_lt.mp fun hlt => hlowj k hlt hk
    rw [le_antisymm hjk hkj]

/-- A key's number fits in a byte. -/
theorem toNat_keyByte (k : RegIdx) : (keyByte k).toNat = k.val := by
  have := k.isLt
  rw [keyByte, BitVec.toNat_ofNat]
  omega

/-- Settles O53: the wait finds the lowest qualifying key (`foundKey_eq_some_of_lowest`) or none (`foundKey_eq_none`), and
`exec_ldVxK_next` gives the state that each leaves. -/
theorem keyWaitResolvesOnLowestKey : Obligations.KeyWaitResolvesOnLowestKey := by
  refine fun x s hawaiting => ⟨fun k hk hlow => ?_, fun hnone => ?_⟩
  · have hexec : exec (.ldVxK x) s = .next ((s.setV x (keyByte k)).setAwaiting false) :=
      exec_ldVxK_next.mpr (.inr (.inr ⟨hawaiting, k, foundKey_eq_some_of_lowest hk hlow, rfl⟩))
    refine ⟨_, hexec, ?_, rfl, rfl, fun r hr => readV_setV_other s _ hr, keptBut_resolveWait s x _⟩
    rw [readV_setAwaiting, readV_setV_same, toNat_keyByte]
  · have hexec : exec (.ldVxK x) s = .next s.stayWaiting :=
      exec_ldVxK_next.mpr (.inr (.inl ⟨hawaiting, foundKey_eq_none.mpr hnone, rfl⟩))
    exact ⟨_, hexec, hawaiting, rfl, rfl, keptBut_stayWaiting s⟩

end Sys2Proof.Machine
end

section
/-! ## Faults and the timer decay (rules R48, R190 to R195, R198, R202 to R204) -/

namespace Sys2Proof.Machine

/-! ### The state a fault leaves (rule R198) -/

/-- A fetch fault leaves the state with the inputs of the tick loaded; a fault after the fetch leaves the state in which the
handler starts. -/
theorem step_fault_final {s : State} {f : Fault} (h : step s = .fault f) :
    (0x0FFE < s.pc.toNat ∧ f.final = s.sampled) ∨ (s.pc.toNat ≤ 0x0FFE ∧ f.final = s.entered) := by
  obtain ⟨hpc, rfl⟩ | ⟨hpc, -, rfl⟩ | ⟨i, ⟨hpc, -⟩, hexec⟩ := step_fault h
  · exact .inl ⟨hpc, rfl⟩
  · exact .inr ⟨hpc, rfl⟩
  · exact .inr ⟨hpc, exec_fault_final hexec⟩

/-- Settles O9: both states that a fault can leave (`step_fault_final`) load the inputs, and they differ in `PC` only. -/
theorem faultsArePrecise : Obligations.FaultsArePrecise := by
  intro s f h
  obtain ⟨hpc, hfinal⟩ | ⟨hpc, hfinal⟩ := step_fault_final h <;> rw [hfinal]
  · exact ⟨rfl, rfl, rfl, rfl, rfl, rfl, rfl, rfl, rfl, rfl, rfl, rfl, rfl, .inl ⟨hpc, rfl⟩⟩
  · exact ⟨rfl, rfl, rfl, rfl, rfl, rfl, rfl, rfl, rfl, rfl, rfl, rfl, rfl, .inr ⟨hpc, rfl⟩⟩

/-! ### The causes of a fault (rules R48, R190 to R195) -/

/-- A handler faults for one of three causes, each with its own fault. -/
theorem exec_fault {i : Instr} {s : State} {f : Fault} (h : exec i s = .fault f) :
    (i = .ret ∧ s.sp.val = 0 ∧ f = .stackUnderflow s) ∨
    ((∃ nnn, i = .call nnn) ∧ s.sp.val = 16 ∧ f = .stackOverflow s) ∨
    (AccessPastEnd i s ∧ f = .outOfBoundsData s) := by
  obtain ⟨t, hexec⟩ | ⟨hi, hsp, hexec⟩ | ⟨hi, hsp, hexec⟩ | ⟨hpast, hexec⟩ := exec_cases i s <;> cases h.symm.trans hexec
  · exact .inl ⟨hi, hsp, rfl⟩
  · exact .inr (.inl ⟨hi, hsp, rfl⟩)
  · exact .inr (.inr ⟨hpast, rfl⟩)

/-- Settles O10: the fault is that of the fetch, of an illegal word or of a handler (`step_fault`), and a handler's has the
causes of `exec_fault`; neither `SP` nor `I` has moved since before the tick. -/
theorem faultsHaveOnlyTheListedCauses : Obligations.FaultsHaveOnlyTheListedCauses := by
  intro s f h
  obtain ⟨hpc, rfl⟩ | ⟨hpc, hillegal, rfl⟩ | ⟨i, hat, hexec⟩ := step_fault h
  · exact hpc
  · exact ⟨hpc, hillegal⟩
  · obtain ⟨rfl, hsp, rfl⟩ | ⟨⟨nnn, rfl⟩, hsp, rfl⟩ | ⟨hpast, rfl⟩ := exec_fault hexec
    · exact ⟨hat, hsp⟩
    · exact ⟨⟨nnn, hat⟩, hsp⟩
    · obtain ⟨x, y, n, rfl, hn, hend⟩ | ⟨x, rfl, hend⟩ | ⟨x, rfl | rfl, hend⟩ := hpast
      · exact .inl ⟨x, y, n, hat, hn, hend⟩
      · exact .inr (.inl ⟨x, hat, hend⟩)
      · exact .inr (.inr ⟨x, .inl hat, hend⟩)
      · exact .inr (.inr ⟨x, .inr hat, hend⟩)

/-! ### The decay of the timers (rules R202, R203, R204) -/

/-- Settles O11: a successful tick ends with the decay of the timers (`step_next`); a fault leaves every element but the
inputs and `PC` as it was (`faultsArePrecise`). -/
theorem onlySuccessfulTicksDecayTimers : Obligations.OnlySuccessfulTicksDecayTimers := by
  refine ⟨fun s t h => ?_, fun s f h => ?_⟩
  · obtain ⟨i, u, hat, hexec, rfl⟩ := step_next h
    exact ⟨i, u, hat, hexec, decayed_toNat u.dt, decayed_toNat u.st, rfl⟩
  · obtain ⟨-, -, -, -, hdt, hst, -⟩ := faultsArePrecise s f h
    exact ⟨hdt, hst⟩

/-- Only `Fx15` writes the delay timer (rule R19). -/
theorem exec_dt_of_not_ldDt {i : Instr} {s t : State} (h : exec i s = .next t) (hi : ∀ x, i ≠ .ldDt x) :
    t.dt = s.dt := by
  obtain ⟨-, -, -, -, -, hdt, -⟩ := stateIsWrittenOnlyByItsWriters i s t h
  cases i
  case ldDt x => exact absurd rfl (hi x)
  all_goals exact hdt

@[simp] theorem dt_entered (s : State) : s.entered.dt = s.dt := rfl

/-- A successful tick that does not run `Fx15` takes one from the delay timer, which sticks at 0. -/
theorem step_dt_of_not_ldDt {s t : State} (h : step s = .next t) (hs : ∀ x, ¬s.AtInstr (.ldDt x)) :
    t.dt.toNat = s.dt.toNat - 1 := by
  obtain ⟨i, u, hat, hexec, rfl⟩ := step_next h
  have hdt : u.dt = s.entered.dt := exec_dt_of_not_ldDt hexec fun x hi => hs x (hi ▸ hat)
  calc (decayed u.dt).toNat = u.dt.toNat - 1 := decayed_toNat u.dt
    _ = s.dt.toNat - 1 := by rw [hdt, dt_entered]

/-- A run that meets no fault starts with a successful tick, from which the rest runs. -/
theorem exists_step_of_run_succ {k : Nat} {s t : State} (h : Sys2Proof.core.run (k + 1) s = .next t) :
    ∃ u, step s = .next u ∧ Sys2Proof.core.run k u = .next t := by
  rw [run_succ] at h
  cases hu : step s with
  | next u => rw [hu] at h; exact ⟨u, rfl, h⟩
  | fault f => rw [hu] at h; cases h
  | refused r => rw [hu] at h; cases h

/-- Settles O25, by induction on the number of ticks: the first tick takes one (`step_dt_of_not_ldDt`), and the state after
`j` ticks of the rest is the state after `j + 1` ticks of the whole run. -/
theorem delayTimerCountsTicks : Obligations.DelayTimerCountsTicks := by
  intro k
  induction k with
  | zero =>
    intro s t hrun _
    cases hrun
    rfl
  | succ k ih =>
    intro s t hrun hnone
    obtain ⟨u, hstep, hrest⟩ := exists_step_of_run_succ hrun
    have hfirst : u.dt.toNat = s.dt.toNat - 1 := step_dt_of_not_ldDt hstep (hnone 0 s k.succ_pos rfl)
    have hcount : t.dt.toNat = u.dt.toNat - k :=
      ih u t hrest fun j w hj hw => hnone (j + 1) w (Nat.succ_lt_succ hj) ((run_succ_of_next hstep j).trans hw)
    omega

end Sys2Proof.Machine
end

section
/-! ## The values after reset (rule R220) -/

namespace Sys2Proof.Machine

/-! ### The banks after reset hold zeros (rules R10, R17, R21) -/

theorem readV_reset (r : RegIdx) : State.reset.readV r = 0x00#8 := Vector.getElem_replicate r.isLt

theorem stack_reset (j : Fin 16) : State.reset.stack[j.val] = 0x0000#16 := Vector.getElem_replicate j.isLt

/-- The frame buffer after reset is the one that clearing leaves. -/
theorem pixel_reset (r : Fin 32) (c : Fin 64) : State.reset.pixel r c = false := pixel_setScreen_blank State.reset r c

/-! ### Memory after reset (rules R26, R27) -/

theorem byteAt_reset_font (j : Nat) (hj : j < 80) :
    some (State.reset.byteAt (0x050 + j)) = defaultFont.bytes[j]? :=
  resetWith_defaultParams ▸ byteAt_resetWith_font defaultParams j hj

theorem byteAt_reset_outside_font (a : Nat) (ha : a < 0x050 ∨ 0x09F < a) : State.reset.byteAt a = 0x00#8 :=
  initialByte_outside_font a ha

/-- Settles O15: the banks hold zeros in every place, memory is that of a reset with the default font, and the other
elements are single values of `State.reset`. -/
theorem resetLeavesTheStatedValues : Obligations.ResetLeavesTheStatedValues :=
  have hkeys (k : Fin 16) : State.reset.key.getLsbD k.val = false ∧ State.reset.prevkey.getLsbD k.val = false :=
    ⟨BitVec.getLsbD_zero, BitVec.getLsbD_zero⟩
  ⟨readV_reset, rfl, rfl, stack_reset, rfl, rfl, rfl, pixel_reset, hkeys, rfl, rfl, byteAt_reset_font,
    byteAt_reset_outside_font⟩

end Sys2Proof.Machine
end
